-- ==== Sys2Proof/Word.lean ====
section
/-! DEFINITION. The words the block handles (spec 00 R6): bytes, 16-bit TEXT addresses, and the 4-bit operands of
the nibble-operand commands (30 R70). -/

namespace Sys2Proof

/-- Every value the block handles is a byte (00 R6). -/
abbrev Byte := BitVec 8

/-- A TEXT address is TEXT_ADDR_BITS = 16 bits wide (00 R6). -/
abbrev Addr := BitVec 16

/-- The operand of a nibble-operand command (30 R70). -/
abbrev Nibble := BitVec 4

end Sys2Proof
end

