-- ==== Sys2Proof/Config.lean ====
section
/-! DEFINITION. The implementation parameters (spec 00 R5) as plain data, the value the machine is built with after
reset, and the free values the spec leaves open. A value the spec marks OPEN is an opaque constant here: no proof
can see what it is (log entries 2, 7, 8 and 9). -/

namespace Sys2Proof

/-- SPI_MODE: the clock polarity and phase of the bus (00 R5, 41 R86). -/
structure SpiMode where
  polarity : Bool
  phase : Bool
  deriving DecidableEq, Repr, Inhabited

/-- The parameters of 00 R5 that a build fixes. Durations are nominal values in microseconds (70 R187). A level is
`true` for the high electrical level (00 R11). -/
structure Config where
  /-- PAGES -/
  pages : Nat
  /-- COLUMNS -/
  columns : Nat
  /-- GLYPH_WIDTH -/
  glyphWidth : Nat
  /-- GLYPH_COUNT -/
  glyphCount : Nat
  /-- GLYPH_ROM: for each index below GLYPH_COUNT, its GLYPH_WIDTH bytes -/
  glyphRom : List (List Byte)
  /-- GLYPH_BIT_ORDER: the bit of a column byte that is the top pixel row -/
  glyphTopBit : Fin 8
  /-- T_SETTLE -/
  tSettle : Nat
  /-- T_POWER -/
  tPower : Nat
  /-- T_RESET -/
  tReset : Nat
  /-- CHECKED_MODE -/
  checkedMode : Bool
  /-- SPI_MODE -/
  spiMode : SpiMode
  /-- SPI_CLK -/
  spiClk : Nat
  /-- CS_ACTIVE_LEVEL -/
  csActiveLevel : Bool
  /-- DC_CMD_LEVEL -/
  dcCmdLevel : Bool
  /-- RST_ACTIVE_LEVEL -/
  rstActiveLevel : Bool
  /-- OFF_SURFACE_ISOLATED -/
  offSurfaceIsolated : Bool
  deriving DecidableEq, Repr

namespace Config

/-- OPEN: GLYPH_COUNT less one, so that 1 <= GLYPH_COUNT <= 256 (00 R5). -/
opaque openGlyphCountPred : Fin 256

/-- OPEN: byte `k` of glyph `i` of GLYPH_ROM (00 R5, 43 R120). -/
opaque openGlyphByte : Nat → Nat → Byte

/-- OPEN: GLYPH_BIT_ORDER (00 R5). -/
opaque openGlyphTopBit : Fin 8

/-- OPEN: SPI_MODE (00 R5). -/
opaque openSpiMode : SpiMode

/-- OPEN: SPI_CLK (00 R5). -/
opaque openSpiClk : Nat

/-- OPEN: CS_ACTIVE_LEVEL (00 R5). -/
opaque openCsActiveLevel : Bool

/-- OPEN: DC_CMD_LEVEL (00 R5). -/
opaque openDcCmdLevel : Bool

/-- OPEN: RST_ACTIVE_LEVEL (00 R5). -/
opaque openRstActiveLevel : Bool

/-- OPEN: OFF_SURFACE_ISOLATED (00 R5). -/
opaque openOffSurfaceIsolated : Bool

/-- FREE VALUE: the byte an out-of-table glyph read draws (43 R111), by the number of draws made before it (log
entry 9). -/
opaque draw : Nat → Byte

/-- FREE VALUE: CNT_PAGE after a request that used it (10 R27, log entry 7). -/
opaque freeCntPage : Nat → BitVec 5

/-- FREE VALUE: CNT_COL after a request that used it (10 R27, log entry 7). -/
opaque freeCntCol : Nat → BitVec 9

/-- FREE VALUE: CNT_GLYPH after a request that used it (10 R27, log entry 7), and at the end of its loop where
GLYPH_WIDTH does not fit it (43 R112, log entry 24). -/
opaque freeCntGlyph : Nat → BitVec 8

/-- FREE VALUE: TEXT_PTR after a request that used it (10 R27, log entry 7). -/
opaque freeTextPtr : Nat → BitVec 16

/-- FREE VALUE: INIT_IDX after a request that used it (10 R27, log entry 7). -/
opaque freeInitIdx : Nat → BitVec 5

/-- FREE VALUE: SPI_STATUS after INIT_BUS has reset it (10 R29, 41 R84, log entry 8). -/
opaque freeSpiStatus : Nat → Nat

/-- The parameters after reset: the default and nominal values of 00 R5, every OPEN one left open. -/
def build : Config where
  pages := 8
  columns := 128
  glyphWidth := 6
  glyphCount := openGlyphCountPred.val + 1
  glyphRom := (List.range (openGlyphCountPred.val + 1)).map fun i => (List.range 6).map fun k => openGlyphByte i k
  glyphTopBit := openGlyphTopBit
  tSettle := 25
  tPower := 10000
  tReset := 10000
  checkedMode := false
  spiMode := openSpiMode
  spiClk := openSpiClk
  csActiveLevel := openCsActiveLevel
  dcCmdLevel := openDcCmdLevel
  rstActiveLevel := openRstActiveLevel
  offSurfaceIsolated := openOffSurfaceIsolated

end Config

end Sys2Proof
end

