-- ==== Sys2Proof/Machine/State.lean ====
section
/-! DEFINITION. The state of the machine as plain data: the block (spec 10 R20 to R29), the bus events it has emitted
(00 R10), the reference observer of the LCD controller (44 R150), and the inputs of the step that the spec calls
parameters (10 R34). Where the spec names UNDEF or unknown as a value of its own, the field is an `Option`, `none`
being that value. -/

namespace Sys2Proof.Machine

/-- ON and OFF of the CS and RST lines: chip-select active, reset asserted (00 R11). -/
inductive Switch where
  | on
  | off
  deriving DecidableEq, Repr

/-- CMD and DATA of the DC line (00 R11). -/
inductive Mode where
  | cmd
  | data
  deriving DecidableEq, Repr

/-- The three named durations (00 R10, 60 R170). -/
inductive Duration where
  | settle
  | power
  | reset
  deriving DecidableEq, Repr

/-- The bus events (00 R10). -/
inductive Event where
  /-- `cfg_dir` -/
  | cfgDir
  /-- `cfg_spi(MASTER, SPI_MODE, MSB_FIRST)` -/
  | cfgSpi (mode : SpiMode)
  /-- `clr_status` -/
  | clrStatus
  /-- `dc(CMD)` or `dc(DATA)` -/
  | dc (m : Mode)
  /-- `cs(ON)` or `cs(OFF)` -/
  | cs (x : Switch)
  /-- `xfer(b)` -/
  | xfer (b : Byte)
  /-- `rst(ON)` or `rst(OFF)` -/
  | rst (x : Switch)
  /-- `wait(T)` -/
  | wait (t : Duration)
  deriving DecidableEq, Repr

/-- LINE_DIR (10 R28). -/
inductive LineDir where
  | unconfigured
  | output
  deriving DecidableEq, Repr

/-- The one legal bit order of SPI_CFG.ORDER (10 R29). -/
inductive BitOrder where
  | msbFirst
  deriving DecidableEq, Repr

/-- SPI_CFG, `none` being UNDEF (10 R29). -/
structure SpiCfg where
  master : Option Bool
  mode : Option SpiMode
  order : Option BitOrder
  deriving DecidableEq, Repr

/-- The line state of 10 R28 and the serial-controller configuration of 10 R29, `none` being UNDEF. -/
structure Lines where
  dir : LineDir
  cs : Option Switch
  dc : Option Mode
  rst : Option Switch
  spi : SpiCfg
  deriving DecidableEq, Repr

/-- Where a RENDER_STRING in progress stands (43 R115, 70 R191; log entry 12). -/
inductive StringJob where
  /-- checked mode: the string is being read; `count` bytes read so far, and whether one of them is out of the table -/
  | scan (count : Nat) (unsupported : Bool)
  /-- the cursor is positioned and the characters are being drawn -/
  | draw
  deriving DecidableEq, Repr

/-- SEQ, the sequencer phase (10 R22). Only RENDER_STRING takes more than one step, so BUSY carries its place. -/
inductive Seq where
  | idle
  | busy (job : StringJob)
  | halted
  deriving DecidableEq, Repr

/-- The observer's CFG fields, `none` being unknown (44 R150). -/
structure LcdRegs where
  adc : Option Byte
  display : Option Byte
  comDir : Option Byte
  bias : Option Byte
  power : Option Byte
  ratio : Option Byte
  volume : Option Byte
  allPoints : Option Byte
  startLine : Option Byte
  deriving DecidableEq, Repr

/-- How far the events read so far make a completed reset pulse (44 R154). RST is ON in every case but `released`. -/
inductive Pulse where
  /-- RST is not asserted -/
  | released
  /-- `rst(ON)` has been read, and no long enough wait yet -/
  | asserted
  /-- `rst(ON)` and a wait of at least T_RESET have been read -/
  | held
  /-- a frame came while RST was asserted, so this pulse completes no reset -/
  | spoiled
  deriving DecidableEq, Repr

/-- The reference observer of the LCD controller (44 R150), `none` being unknown. `vram` lists the known surface
cells, by `cellKey` (log entry 18). `cs`, `dc` and `pulse` are what the observer has read of the lines (44 R154,
R155; log entry 11). -/
structure Controller where
  valid : Bool
  page : Option Nibble
  colHi : Option Nibble
  colLo : Option Nibble
  vram : List Host.Cell
  regs : LcdRegs
  volPending : Bool
  cs : Option Switch
  dc : Option Mode
  pulse : Pulse
  deriving DecidableEq, Repr

/-- TEXT memory: its bytes other than what an unlisted address reads as, addresses strictly rising (20 R42; log
entry 4). -/
abbrev Memory := List Host.Cell

/-- The state. -/
structure State where
  /-- the parameters (00 R5, 10 R34); no step changes them -/
  cfg : Config
  /-- the request stream (20 R40) -/
  stream : List Byte
  /-- TEXT memory (20 R42) -/
  text : Memory
  /-- RIP, the request pointer, the block's program counter (10 R21) -/
  rip : Nat
  /-- SEQ (10 R22) -/
  seq : Seq
  /-- READY (10 R23) -/
  ready : Bool
  /-- FAULT (10 R24) -/
  fault : Byte
  /-- RESP (10 R25) -/
  resp : Byte
  /-- OP_PAGE (10 R26) -/
  opPage : Byte
  /-- OP_COL (10 R26) -/
  opCol : Byte
  /-- OP_CHAR (10 R26) -/
  opChar : Byte
  /-- OP_BYTE (10 R26) -/
  opByte : Byte
  /-- OP_ADDR (10 R26) -/
  opAddr : Addr
  /-- CNT_PAGE (10 R27) -/
  cntPage : BitVec 5
  /-- CNT_COL (10 R27) -/
  cntCol : BitVec 9
  /-- CNT_GLYPH (10 R27) -/
  cntGlyph : BitVec 8
  /-- TEXT_PTR (10 R27) -/
  textPtr : Addr
  /-- INIT_IDX (10 R27) -/
  initIdx : BitVec 5
  /-- LINE_DIR, CS, DC, RST and SPI_CFG (10 R28, R29) -/
  lines : Lines
  /-- SPI_STATUS, an uninterpreted record (10 R29; log entry 8) -/
  spiStatus : Nat
  /-- the output trace, oldest event first (00 R10, 10 R20) -/
  trace : List Event
  /-- the response bytes returned to the Host, oldest first (10 R25, 60 R162) -/
  responses : List Byte
  /-- the model's own: how many free values have been drawn; block reset keeps it (log entries 7 and 26) -/
  draws : Nat
  /-- the model's own: how many events of the trace the controller has read (log entry 1) -/
  seen : Nat
  /-- the reference observer of the controller (44 R150) -/
  lcd : Controller
  deriving DecidableEq, Repr

/-- Why the machine stops. -/
inductive Fault where
  /-- Raised by `step` when the sequencer is HALTED and the controller has read every event: nothing executes until
  block reset (60 R165). `code` is the FAULT register. Safe: the model stops where the block stands still. -/
  | halted (code : Byte)
  deriving DecidableEq, Repr

/-- Why a step has no meaning. -/
inductive Refusal where
  /-- Raised by `exec` for an instruction that has no meaning yet. Safe. -/
  | notModelled (mnemonic : String)
  /-- Raised by `step` when SEQ = IDLE, RIP is at the end of the stream and the controller has read every event: the
  run has ended (70 R190) and there is no request to run. Safe. -/
  | endOfRun
  deriving DecidableEq, Repr

/-- Every line undriven and unconfigured (10 R35). -/
def Lines.reset : Lines :=
  { dir := .unconfigured, cs := none, dc := none, rst := none, spi := { master := none, mode := none, order := none } }

/-- Every CFG field unknown (44 R150). -/
def LcdRegs.unknown : LcdRegs :=
  { adc := none, display := none, comDir := none, bias := none, power := none, ratio := none, volume := none,
    allPoints := none, startLine := none }

/-- The observer's initial state (44 R150). -/
def Controller.initial : Controller :=
  { valid := false, page := none, colHi := none, colLo := none, vram := [], regs := .unknown, volPending := false,
    cs := none, dc := none, pulse := .released }

/-- The state right after block reset of a block built with `cfg`, with this request stream and TEXT image (10 R35,
70 R180, R190). DESIGN CHOICE: the operand latches, the working counters and SPI_STATUS, which the spec leaves
unspecified, are zero (log entries 5, 6 and 8). -/
def State.start (cfg : Config) (stream : List Byte) (text : Memory) : State :=
  { cfg, stream, text, rip := 0, seq := .idle, ready := false, fault := 0x00, resp := 0x00, opPage := 0x00,
    opCol := 0x00, opChar := 0x00, opByte := 0x00, opAddr := 0x0000, cntPage := 0, cntCol := 0, cntGlyph := 0,
    textPtr := 0x0000, initIdx := 0, lines := .reset, spiStatus := 0, trace := [], responses := [], draws := 0,
    seen := 0, lcd := .initial }

/-- The machine right after reset, as built, with no program and nothing listed in TEXT memory. -/
def State.reset : State := .start .build [] []

end Sys2Proof.Machine
end

