-- ==== Sys2Proof/Machine/Flags.lean ====
section
/-! DEFINITION. The status flags (spec 10 R31): READY and the checks on it, the phase flags, the packed STATUS view
(10 R32), and the fault and response codes (60 R160, R162). No instruction computes an arithmetic flag (10 R31). -/

namespace Sys2Proof.Machine

/-- IllegalRequest (60 R160). -/
def codeIllegalRequest : Byte := 0x01

/-- BusNotInitialised (60 R160). -/
def codeBusNotInitialised : Byte := 0x02

/-- BusReinitialised (60 R160). -/
def codeBusReinitialised : Byte := 0x03

/-- TruncatedRequest (60 R160). -/
def codeTruncatedRequest : Byte := 0x06

/-- OK (60 R162). -/
def respOk : Byte := 0x00

/-- OutOfRangeAddress (60 R162). -/
def respOutOfRangeAddress : Byte := 0x04

/-- UnsupportedGlyph (60 R162). -/
def respUnsupportedGlyph : Byte := 0x05

/-- The READY check of the decoder: INIT_BUS needs READY = 0, every other request READY = 1 (30 R62, 10 R23). -/
def readyFault (isInitBus ready : Bool) : Option Byte :=
  match isInitBus, ready with
  | true, true => some codeBusReinitialised
  | false, false => some codeBusNotInitialised
  | _, _ => none

/-- BUSY (10 R31). -/
def State.isBusy (s : State) : Bool :=
  match s.seq with
  | .busy _ => true
  | .idle | .halted => false

/-- HALTED (10 R31). -/
def State.isHalted (s : State) : Bool := s.seq == .halted

/-- STATUS, the packed view: READY, BUSY, HALTED and CHECKED in bits 0 to 3, bits 7:4 reading 0 (10 R32). -/
def State.status (s : State) : Byte :=
  0#4 ++ BitVec.ofBool s.cfg.checkedMode ++ BitVec.ofBool s.isHalted ++ BitVec.ofBool s.isBusy
    ++ BitVec.ofBool s.ready

end Sys2Proof.Machine
end

