-- ==== Sys2Proof/Syntax.lean ====
section
/-! DEFINITION. The instructions: one constructor per row of spec/opcode_table.json. The first eight are the requests
the Host sends the block (30 R61). The next fourteen are the LCD commands the controller reads from command frames
(44 R130 to R143), and the last is the data byte it reads from data frames (44 R145). -/

namespace Sys2Proof

/-- Where an instruction is read. A command frame's reading keeps one bit of context: whether the command byte before
it was 0x81 (30 R74). -/
inductive Channel where
  /-- the request stream, read by the block's decoder (30 R62) -/
  | request
  /-- a DC = CMD frame, read by the controller (44 R155, R157) -/
  | command (afterVolumeMode : Bool)
  /-- a DC = DATA frame, read by the controller (44 R155) -/
  | data
  deriving DecidableEq, Repr

/-- One constructor per row of the opcode table, its operands with the widths of the row's fields. -/
inductive Instr where
  /-- INIT_BUS (41 R84) -/
  | initBus
  /-- INIT_DISPLAY (42 R96) -/
  | initDisplay
  /-- SET_CURSOR page, column (42 R101) -/
  | setCursor (page column : Byte)
  /-- CLEAR_SURFACE (43 R117) -/
  | clearSurface
  /-- RENDER_CHAR ascii (43 R113) -/
  | renderChar (ascii : Byte)
  /-- RENDER_STRING page, column, addr (43 R115) -/
  | renderString (page column : Byte) (addr : Addr)
  /-- WRITE_COMMAND byte (42 R91) -/
  | writeCommand (byte : Byte)
  /-- WRITE_DATA byte (42 R94) -/
  | writeData (byte : Byte)
  /-- ADC select, 0xA0 (44 R130) -/
  | adcSelect
  /-- Display off, 0xAE (44 R131) -/
  | displayOff
  /-- COM output direction select, 0xC8 (44 R132) -/
  | comDirSelect
  /-- Page address set, 0xB0 | p (44 R133) -/
  | pageAddr (p : Nibble)
  /-- Column address set, high nibble, 0x10 | h (44 R134) -/
  | colAddrHi (h : Nibble)
  /-- Column address set, low nibble, 0x00 | l (44 R135) -/
  | colAddrLo (l : Nibble)
  /-- Bias select, 0xA3 (44 R136) -/
  | biasSelect
  /-- Power control, 0x2F (44 R137) -/
  | powerCtrl
  /-- Internal resistor ratio select, 0x26 (44 R138) -/
  | resRatio
  /-- Display on, 0xAF (44 R139) -/
  | displayOn
  /-- Electronic volume mode set, 0x81 (44 R140) -/
  | volumeMode
  /-- Electronic volume level: the command byte directly after 0x81 (44 R141) -/
  | volumeLevel (v : Byte)
  /-- All points normal, 0xA4 (44 R142) -/
  | allPointsNormal
  /-- Init origin command 0x40 (44 R143) -/
  | initOrigin40
  /-- Data byte (44 R145) -/
  | data (d : Byte)
  deriving DecidableEq, Repr

end Sys2Proof
end

