-- ==== Sys2Proof/Decode.lean ====
section
/-! DEFINITION. The decoder of each channel, total on any bytes and rejecting by name, and the encoder (spec 30 R61,
R66, R70; 44 R157). -/

namespace Sys2Proof

/-- Why bytes are no instruction of a channel. -/
inductive DecodeError where
  /-- there is no byte to read -/
  | noByte
  /-- a reserved request opcode: 0x00 or 0x09 to 0xFF (30 R68) -/
  | illegalRequest (op : Byte)
  /-- the stream ends before the request's last operand byte (30 R69) -/
  | truncatedRequest (op : Byte)
  /-- a command byte that no rule of 44 R130 to R143 gives a meaning (44 R144) -/
  | unknownCommand (b : Byte)
  deriving DecidableEq, Repr

/-- The bits hi..lo of a byte as a nibble: `highNibble v` is `v[7:4]` (00 R7). -/
def highNibble (v : Byte) : Nibble := BitVec.extractLsb' 4 4 v

/-- `v[3:0]` (00 R7). -/
def lowNibble (v : Byte) : Nibble := BitVec.extractLsb' 0 4 v

/-- The 16-bit operand, least significant byte first: `{hi, lo}` (20 R46, 30 R66). -/
def addrOfBytes (lo hi : Byte) : Addr := hi ++ lo

/-- `addr[7:0]` -/
def addrLow (a : Addr) : Byte := BitVec.extractLsb' 0 8 a

/-- `addr[15:8]` -/
def addrHigh (a : Addr) : Byte := BitVec.extractLsb' 8 8 a

/-- One request from the stream, and the bytes after it (30 R61, R62, R69): the opcode byte fixes the length. -/
def decodeRequest : List Byte → Except DecodeError (Instr × List Byte)
  | [] => .error .noByte
  | op :: rest =>
    match op.toNat, rest with
    | 0x01, r => .ok (.initBus, r)
    | 0x02, r => .ok (.initDisplay, r)
    | 0x03, p :: c :: r => .ok (.setCursor p c, r)
    | 0x03, _ => .error (.truncatedRequest op)
    | 0x04, r => .ok (.clearSurface, r)
    | 0x05, a :: r => .ok (.renderChar a, r)
    | 0x05, _ => .error (.truncatedRequest op)
    | 0x06, p :: c :: l :: h :: r => .ok (.renderString p c (addrOfBytes l h), r)
    | 0x06, _ => .error (.truncatedRequest op)
    | 0x07, b :: r => .ok (.writeCommand b, r)
    | 0x07, _ => .error (.truncatedRequest op)
    | 0x08, b :: r => .ok (.writeData b, r)
    | 0x08, _ => .error (.truncatedRequest op)
    | _, _ => .error (.illegalRequest op)

/-- One command byte that is not directly after 0x81, by the emitted formats of 30 R70 and the order of 44 R157. -/
def decodeCommand (b : Byte) : Except DecodeError Instr :=
  match (highNibble b).toNat, (lowNibble b).toNat with
  | 0x8, 0x1 => .ok .volumeMode
  | 0xB, _ => .ok (.pageAddr (lowNibble b))
  | 0x1, _ => .ok (.colAddrHi (lowNibble b))
  | 0x0, _ => .ok (.colAddrLo (lowNibble b))
  | 0xA, 0x0 => .ok .adcSelect
  | 0xA, 0xE => .ok .displayOff
  | 0xA, 0xF => .ok .displayOn
  | 0xC, 0x8 => .ok .comDirSelect
  | 0xA, 0x3 => .ok .biasSelect
  | 0x2, 0xF => .ok .powerCtrl
  | 0x2, 0x6 => .ok .resRatio
  | 0xA, 0x4 => .ok .allPointsNormal
  | 0x4, 0x0 => .ok .initOrigin40
  | _, _ => .error (.unknownCommand b)

/-- The first instruction of the bytes on a channel, and the bytes after it. -/
def decode : Channel → List Byte → Except DecodeError (Instr × List Byte)
  | .request, bs => decodeRequest bs
  | _, [] => .error .noByte
  | .command true, b :: rest => .ok (.volumeLevel b, rest)
  | .command false, b :: rest => (decodeCommand b).map fun i => (i, rest)
  | .data, b :: rest => .ok (.data b, rest)

/-- `wordBytes n w`: the `n` low bytes of `w`, the least significant first (spec/opcode_table.json numbers bit 0 as
the least significant bit of the first byte). -/
def wordBytes : Nat → Nat → List Byte
  | 0, _ => []
  | n + 1, w => BitVec.ofNat 8 w :: wordBytes n (w / 256)

/-- The bytes of an instruction whose bits are `w`, zero above `nbits`, as long as the longest instruction (30 R61). -/
def tableBytes (nbits w : Nat) : List Byte := wordBytes 5 (w % 2 ^ nbits)

/-- What the decoders read from an opcode-table word: the request decoder first, and, where it refuses the opcode, the
controller's reading of a command byte. VOLUME_LEVEL and DATA are chosen by context, never by a word alone (log
entry 19). -/
def decodeTableWord (nbits w : Nat) : Option Instr :=
  match decode .request (tableBytes nbits w) with
  | .ok (i, _) => some i
  | .error _ =>
    match decode (.command false) (tableBytes nbits w) with
    | .ok (i, _) => some i
    | .error _ => none

/-- The bytes of an instruction (30 R61, R66, R70, R71). -/
def encode : Instr → List Byte
  | .initBus => [0x01]
  | .initDisplay => [0x02]
  | .setCursor p c => [0x03, p, c]
  | .clearSurface => [0x04]
  | .renderChar a => [0x05, a]
  | .renderString p c a => [0x06, p, c, addrLow a, addrHigh a]
  | .writeCommand b => [0x07, b]
  | .writeData b => [0x08, b]
  | .adcSelect => [0xA0]
  | .displayOff => [0xAE]
  | .comDirSelect => [0xC8]
  | .pageAddr p => [0xB#4 ++ p]
  | .colAddrHi h => [0x1#4 ++ h]
  | .colAddrLo l => [0x0#4 ++ l]
  | .biasSelect => [0xA3]
  | .powerCtrl => [0x2F]
  | .resRatio => [0x26]
  | .displayOn => [0xAF]
  | .volumeMode => [0x81]
  | .volumeLevel v => [v]
  | .allPointsNormal => [0xA4]
  | .initOrigin40 => [0x40]
  | .data d => [d]

/-- len(request), in bytes (30 R61); one byte for a command or data byte. -/
def Instr.len : Instr → Nat
  | .setCursor _ _ => 3
  | .renderChar _ | .writeCommand _ | .writeData _ => 2
  | .renderString _ _ _ => 5
  | .initBus | .initDisplay | .clearSurface | .adcSelect | .displayOff | .comDirSelect | .pageAddr _ | .colAddrHi _
  | .colAddrLo _ | .biasSelect | .powerCtrl | .resRatio | .displayOn | .volumeMode | .volumeLevel _
  | .allPointsNormal | .initOrigin40 | .data _ => 1

end Sys2Proof
end

