-- ==== Sys2Proof/Machine/Operands.lean ====
section
/-! DEFINITION. The operand forms: the operand latches (spec 10 R26), the constants of 00 R5, the nibble split of the
cursor operands (42 R100), the glyph index and the glyph read (43 R110, R111), and the checked-mode conditions on the
operands (60 R162). -/

namespace Sys2Proof.Machine

/-- GLYPH_BASE (00 R5). -/
def glyphBase : Byte := 0x20

/-- TERMINATOR (00 R5). -/
def terminator : Byte := 0x00

/-- INIT_CMDS, in order (00 R5, 42 R96). -/
def initCommands : List Byte :=
  [0xA0, 0xAE, 0xC8, 0xA3, 0x2F, 0x26, 0x81, 0x07, 0xAF, 0xA4, 0x40, 0xB0, 0x10, 0x00]

/-- INIT_FILL: the data writes that end INIT_DISPLAY (00 R5). -/
def initFill : List Byte := [0xFF, 0xFF, 0xFF, 0xFF, 0xFF]

/-- The clear value of CLEAR_SURFACE (43 R117). -/
def clearByte : Byte := 0x00

/-- Latching the cursor operands (30 R62, R63). -/
def State.latchCursor (p c : Byte) (s : State) : State := { s with opPage := p, opCol := c }

/-- Latching the character operand (30 R62, R64). -/
def State.latchChar (a : Byte) (s : State) : State := { s with opChar := a }

/-- Latching the byte operand (30 R62, R65). -/
def State.latchByte (b : Byte) (s : State) : State := { s with opByte := b }

/-- Latching the TEXT address operand (30 R62, R66). -/
def State.latchAddr (a : Addr) (s : State) : State := { s with opAddr := a }

/-- `0xB0 | (p & 0x0F)`: the page address command byte (42 R100). -/
def pageCommand (p : Byte) : Byte := 0xB0 ||| (p &&& 0x0F)

/-- `0x10 | ((c >> 4) & 0x0F)`: the column high-nibble command byte (42 R100). -/
def colHiCommand (c : Byte) : Byte := 0x10#8 ||| ((c >>> 4) &&& 0x0F)

/-- `0x00 | (c & 0x0F)`: the column low-nibble command byte (42 R100). -/
def colLoCommand (c : Byte) : Byte := 0x00 ||| (c &&& 0x0F)

/-- `idx(a) = (a - GLYPH_BASE) mod 2^8` (43 R110). -/
def glyphIndex (a : Byte) : Nat := (a - glyphBase).toNat

/-- `GlyphRead(i, k)`: the table byte, or, out of the table, the free byte of draw `d` (43 R111; log entry 9). -/
def glyphByte (c : Config) (d i k : Nat) : Byte :=
  if i < c.glyphCount then ((c.glyphRom[i]?.getD [])[k]?).getD (Config.draw d) else Config.draw d

/-- The GLYPH_WIDTH reads of one glyph, in byte order, read `k` drawing free byte `d + k` (43 R112). -/
def glyphBytes (c : Config) (d i : Nat) : List Byte :=
  (List.range c.glyphWidth).map fun k => glyphByte c (d + k) i k

/-- UnsupportedGlyph: the character's index is out of the table (43 R113, 60 R162). -/
def unsupportedGlyph (c : Config) (a : Byte) : Bool := decide (c.glyphCount ≤ glyphIndex a)

/-- OutOfRangeAddress of SET_CURSOR: page >= PAGES or column >= COLUMNS (42 R101). -/
def offSurfaceOperands (c : Config) (p col : Byte) : Bool :=
  decide (c.pages ≤ p.toNat) || decide (c.columns ≤ col.toNat)

/-- OutOfRangeAddress of RENDER_STRING for a string of `n` characters, in exact arithmetic (43 R115). -/
def stringOutOfRange (c : Config) (p col : Byte) (n : Nat) : Bool :=
  offSurfaceOperands c p col || decide (c.columns < col.toNat + c.glyphWidth * n)

end Sys2Proof.Machine
end

