-- ==== Sys2Proof/Machine/Ops.lean ====
section
/-! DEFINITION. The named operations over memory and registers: the sorted cell lists behind TEXT memory and the
observer's VRAM, TEXT memory (spec 20 R42, R56), emitting bus events (00 R9, R10; 10 R28, R29), ending a request (60
R162), entering a fatal fault (60 R163), and block reset, the only return from one (60 R165, 70 R180). -/

namespace Sys2Proof.Machine

/-! Sorted lists of cells -/

/-- The byte listed at a key. -/
def cellFind : List Host.Cell → Nat → Option Byte
  | [], _ => none
  | (k, v) :: rest, a => if a = k then some v else cellFind rest a

/-- List `b` at key `a`, keys strictly rising. -/
def cellPut : List Host.Cell → Nat → Byte → List Host.Cell
  | [], a, b => [(a, b)]
  | (k, v) :: rest, a, b =>
    if a < k then (a, b) :: (k, v) :: rest
    else if a = k then (a, b) :: rest
    else (k, v) :: cellPut rest a b

/-- List nothing at key `a`. -/
def cellErase (m : List Host.Cell) (a : Nat) : List Host.Cell := m.filter fun c => c.1 != a

/-- Keys strictly rising. -/
abbrev cellsRising (m : List Host.Cell) : Prop := m.Pairwise fun x y => x.1 < y.1

/-! TEXT memory -/

/-- What an unlisted TEXT address reads as. DESIGN CHOICE (log entry 4). -/
def Memory.unlisted : Byte := 0x00

/-- `MemRead(a, 1)` (20 R42). -/
def Memory.read (m : Memory) (a : Addr) : Byte := (cellFind m a.toNat).getD Memory.unlisted

/-- Place one byte, keeping the canonical form. Only the Host writes TEXT memory (20 R42). -/
def Memory.write (m : Memory) (a : Addr) (b : Byte) : Memory :=
  if b = Memory.unlisted then cellErase m a.toNat else cellPut m a.toNat b

/-- The canonical form: addresses strictly rising and below 2^16, no entry equal to what an unlisted address reads
as. -/
def Memory.wf (m : Memory) : Bool :=
  decide (cellsRising m) && m.all fun c => decide (c.1 < 65536) && c.2 != Memory.unlisted

/-- The Host changes a TEXT byte, which it may do only while SEQ = IDLE (20 R56). -/
def State.hostWriteText (a : Addr) (b : Byte) (s : State) : Option State :=
  if s.seq = .idle then some { s with text := s.text.write a b } else none

/-! Bus events -/

/-- The bits MOSI carries for `xfer(b)`: b[7] first, b[0] last (20 R45, 41 R80). -/
def mosiBits (b : Byte) : List Bool := (List.range 8).map fun k => b.getLsbD (7 - k)

/-- What one event does to the lines and to the serial-controller configuration (10 R28, R29; 41 R84). -/
def Lines.drive (l : Lines) : Event → Lines
  | .cfgDir => { l with dir := .output }
  | .cfgSpi mode => { l with spi := { master := some true, mode := some mode, order := some .msbFirst } }
  | .dc m => { l with dc := some m }
  | .cs x => { l with cs := some x }
  | .rst x => { l with rst := some x }
  | .clrStatus | .xfer _ | .wait _ => l

/-- `Emit` of each event in order: append it to the trace and drive the lines (00 R9). -/
def State.emit (evs : List Event) (s : State) : State :=
  { s with trace := s.trace ++ evs, lines := evs.foldl Lines.drive s.lines }

/-- The electrical level of the CS line, none while UNDEF (00 R11). -/
def Lines.csLevel (c : Config) (l : Lines) : Option Bool :=
  l.cs.map fun x => if x = .on then c.csActiveLevel else !c.csActiveLevel

/-- The electrical level of the DC line, none while UNDEF (00 R11). -/
def Lines.dcLevel (c : Config) (l : Lines) : Option Bool :=
  l.dc.map fun m => if m = .cmd then c.dcCmdLevel else !c.dcCmdLevel

/-- The electrical level of the RST line, none while UNDEF (00 R11). -/
def Lines.rstLevel (c : Config) (l : Lines) : Option Bool :=
  l.rst.map fun x => if x = .on then c.rstActiveLevel else !c.rstActiveLevel

/-- The nominal length of a wait (70 R187). -/
def nominal (c : Config) : Duration → Nat
  | .settle => c.tSettle
  | .power => c.tPower
  | .reset => c.tReset

/-! Requests -/

/-- `respond(code)` of a request of `len` bytes: RESP is written and returned to the Host, RIP advances past the
request, and SEQ returns to IDLE (60 R162, 10 R21, R25). -/
def State.respond (code : Byte) (len : Nat) (s : State) : State :=
  { s with resp := code, responses := s.responses ++ [code], rip := s.rip + len, seq := .idle }

/-- `raise Fault(code)`: FAULT is written and SEQ is HALTED, and nothing else changes (60 R163). -/
def State.raiseFault (code : Byte) (s : State) : State := { s with fault := code, seq := .halted }

/-- A request whose opcode and length are legal: the fault of the READY check (30 R62), or else its effect. -/
def State.accept (isInitBus : Bool) (effect : State → State) (s : State) : Host.Outcome State Fault Refusal :=
  match readyFault isInitBus s.ready with
  | some code => .next (s.raiseFault code)
  | none => .next (effect s)

/-- Block reset from any state: the only way out of HALTED (70 R180, 60 R165). The parameters, the
Host's stream and TEXT memory are no state of the block and stay (10 R34). DESIGN CHOICE: the count of free values drawn
goes on, so that a value drawn after the reset is not known to be one drawn before it (43 R111, log entry 26). -/
def State.blockReset (s : State) : State := { State.start s.cfg s.stream s.text with draws := s.draws }

/-! Free values after a request (10 R27; log entry 7) -/

/-- CNT_PAGE and CNT_COL are unspecified between requests. -/
def State.forgetSweep (s : State) : State :=
  { s with cntPage := Config.freeCntPage s.draws, cntCol := Config.freeCntCol s.draws, draws := s.draws + 1 }

/-- CNT_GLYPH is unspecified between requests. -/
def State.forgetGlyph (s : State) : State :=
  { s with cntGlyph := Config.freeCntGlyph s.draws, draws := s.draws + 1 }

/-- TEXT_PTR is unspecified between requests. -/
def State.forgetTextPtr (s : State) : State :=
  { s with textPtr := Config.freeTextPtr s.draws, draws := s.draws + 1 }

/-- INIT_IDX is unspecified between requests. -/
def State.forgetInitIdx (s : State) : State :=
  { s with initIdx := Config.freeInitIdx s.draws, draws := s.draws + 1 }

end Sys2Proof.Machine
end

