-- ==== Sys2Proof/Machine/Lcd.lean ====
section
/-! DEFINITION. The LCD command set and the data byte as the reference observer reads them (spec 44): the reading of
the lines and of the reset pulse (R154, R155), the surface (R151 to R153), and one meaning per command. -/

namespace Sys2Proof.Machine

/-! Reading the lines -/

/-- A completed reset pulse: VALID, and everything unknown (44 R154). -/
def Controller.completeReset (o : Controller) : Controller :=
  { o with
    valid := true, volPending := false, page := none, colHi := none, colLo := none, vram := [], regs := .unknown,
    pulse := .released }

/-- Reading an event that carries no byte (44 R154, R155). -/
def Controller.readLine (c : Config) (o : Controller) : Event → Controller
  | .dc m => { o with dc := some m }
  | .cs x => { o with cs := some x }
  | .rst .on => { o with pulse := .asserted }
  | .rst .off => if o.pulse = .held then o.completeReset else { o with pulse := .released }
  | .wait t => if o.pulse = .asserted ∧ c.tReset ≤ nominal c t then { o with pulse := .held } else o
  | .cfgDir | .cfgSpi _ | .clrStatus | .xfer _ => o

/-- The channel on which the byte of a frame is read: none outside a frame, and none while RST is asserted (44 R154,
R155). -/
def Controller.channel (o : Controller) : Option Channel :=
  if o.cs = some .on ∧ o.pulse = .released then
    match o.dc with
    | some .cmd => some (.command o.volPending)
    | some .data => some .data
    | none => none
  else none

/-- A frame while RST is asserted is ignored, and its pulse completes no reset (44 R154; log entry 11). -/
def Controller.ignoreByte (o : Controller) : Controller :=
  if o.cs = some .on ∧ o.pulse ≠ .released then { o with pulse := .spoiled } else o

/-- The observer becomes lost (44 R156; log entry 17). -/
def Controller.lose (o : Controller) : Controller := { o with valid := false }

/-! The surface -/

/-- The key of surface cell (p, c); c < 256 (log entry 18). -/
def cellKey (p c : Nat) : Nat := p * 256 + c

/-- `VRAM[p][c]`, none being unknown (44 R150). -/
def Controller.cell (o : Controller) (p c : Nat) : Option Byte := cellFind o.vram (cellKey p c)

/-- The column C = (CH, CL), known only when both nibbles are (44 R150). -/
def Controller.column (o : Controller) : Option Nat :=
  match o.colHi, o.colLo with
  | some h, some l => some (h ++ l).toNat
  | _, _ => none

/-- The column latch after a data write: C + 1 while that is below COLUMNS, unknown otherwise (44 R151 to R153; log
entry 15). -/
def Controller.advance (c : Config) (o : Controller) : Controller :=
  match o.column with
  | some col =>
    if col + 1 < c.columns then
      { o with
        colHi := some (highNibble (BitVec.ofNat 8 (col + 1))), colLo := some (lowNibble (BitVec.ofNat 8 (col + 1))) }
    else { o with colHi := none, colLo := none }
  | none => { o with colHi := none, colLo := none }

/-- The known cells after a data byte `b` at the latches (44 R151 to R153; log entry 16). -/
def Controller.vramAfter (c : Config) (b : Byte) (o : Controller) : List Host.Cell :=
  match o.page, o.column with
  | none, _ => []
  | some p, some col =>
    if p.toNat < c.pages ∧ col < c.columns then cellPut o.vram (cellKey p.toNat col) b
    else if c.offSurfaceIsolated then o.vram
    else []
  | some p, none =>
    if p.toNat < c.pages then
      if c.offSurfaceIsolated then o.vram.filter fun x => x.1 / 256 != p.toNat else []
    else if c.offSurfaceIsolated then o.vram
    else []

/-- Reading a data byte: lost inside the 0x81 pair (44 R156), else a data write (44 R151 to R153). -/
def Controller.dataByte (c : Config) (b : Byte) (o : Controller) : Controller :=
  if o.volPending then o.lose else { o with vram := o.vramAfter c b }.advance c

/-- The canonical form of the known cells: keys strictly rising, each a cell of the surface. -/
def Controller.vramWf (c : Config) (o : Controller) : Bool :=
  decide (cellsRising o.vram) && o.vram.all fun x => decide (x.1 / 256 < c.pages) && decide (x.1 % 256 < c.columns)

/-! Meanings -/

/-- Reading with VALID false leaves the observer unchanged (44 R155); otherwise `f` is the effect. -/
def State.observe (f : Controller → Controller) (s : State) : State :=
  if s.lcd.valid then { s with lcd := f s.lcd } else s

/-- Recording a configuration byte (44 R157). -/
def State.record (f : LcdRegs → LcdRegs) (s : State) : State := s.observe fun o => { o with regs := f o.regs }

/-- ADC select (44 R130). -/
def execAdcSelect (s : State) : Host.Outcome State Fault Refusal :=
  .next (s.record fun r => { r with adc := some 0xA0 })

/-- Display off (44 R131). -/
def execDisplayOff (s : State) : Host.Outcome State Fault Refusal :=
  .next (s.record fun r => { r with display := some 0xAE })

/-- COM output direction select (44 R132). -/
def execComDirSelect (s : State) : Host.Outcome State Fault Refusal :=
  .next (s.record fun r => { r with comDir := some 0xC8 })

/-- Page address set (44 R133). -/
def execPageAddr (p : Nibble) (s : State) : Host.Outcome State Fault Refusal :=
  .next (s.observe fun o => { o with page := some p })

/-- Column address set, high nibble (44 R134). -/
def execColAddrHi (h : Nibble) (s : State) : Host.Outcome State Fault Refusal :=
  .next (s.observe fun o => { o with colHi := some h })

/-- Column address set, low nibble (44 R135). -/
def execColAddrLo (l : Nibble) (s : State) : Host.Outcome State Fault Refusal :=
  .next (s.observe fun o => { o with colLo := some l })

/-- Bias select (44 R136). -/
def execBiasSelect (s : State) : Host.Outcome State Fault Refusal :=
  .next (s.record fun r => { r with bias := some 0xA3 })

/-- Power control (44 R137). -/
def execPowerCtrl (s : State) : Host.Outcome State Fault Refusal :=
  .next (s.record fun r => { r with power := some 0x2F })

/-- Internal resistor ratio select (44 R138). -/
def execResRatio (s : State) : Host.Outcome State Fault Refusal :=
  .next (s.record fun r => { r with ratio := some 0x26 })

/-- Display on (44 R139). -/
def execDisplayOn (s : State) : Host.Outcome State Fault Refusal :=
  .next (s.record fun r => { r with display := some 0xAF })

/-- Electronic volume mode set (44 R140). -/
def execVolumeMode (s : State) : Host.Outcome State Fault Refusal :=
  .next (s.observe fun o => { o with volPending := true })

/-- Electronic volume level (44 R141). -/
def execVolumeLevel (v : Byte) (s : State) : Host.Outcome State Fault Refusal :=
  .next (s.observe fun o => { o with regs := { o.regs with volume := some v }, volPending := false })

/-- All points normal (44 R142). -/
def execAllPointsNormal (s : State) : Host.Outcome State Fault Refusal :=
  .next (s.record fun r => { r with allPoints := some 0xA4 })

/-- Init origin command 0x40 (44 R143). -/
def execInitOrigin40 (s : State) : Host.Outcome State Fault Refusal :=
  .next (s.record fun r => { r with startLine := some 0x40 })

/-- Data byte (44 R145). -/
def execData (d : Byte) (s : State) : Host.Outcome State Fault Refusal :=
  .next (s.observe (Controller.dataByte s.cfg d))

end Sys2Proof.Machine
end

