-- ==== Sys2Proof/Machine/Bus.lean ====
section
/-! DEFINITION. The Bus Transport (spec 41): SEND_BYTE and the one-byte frame as lists of bus events, and INIT_BUS. -/

namespace Sys2Proof.Machine

/-- SEND_BYTE(b): one full-duplex exchange. The byte received is discarded and stored nowhere (41 R80; log entry 9). -/
def sendByte (b : Byte) : List Event := [.xfer b]

/-- Frame(m, b) (41 R81). -/
def frame (m : Mode) (b : Byte) : List Event := [.dc m, .cs .on] ++ sendByte b ++ [.cs .off]

/-- The events of INIT_BUS (41 R84). -/
def busSetup (c : Config) : List Event := [.cfgDir, .cfgSpi c.spiMode, .clrStatus]

/-- `clr_status` leaves SPI_STATUS at an unspecified reset value, a free value (41 R84; log entry 8). -/
def State.clearSpiStatus (s : State) : State :=
  { s with spiStatus := Config.freeSpiStatus s.draws, draws := s.draws + 1 }

/-- INIT_BUS: configure the bus lines and the serial controller, and set READY (41 R84). -/
def execInitBus (s : State) : Host.Outcome State Fault Refusal :=
  s.accept true fun s =>
    let s := (s.emit (busSetup s.cfg)).clearSpiStatus
    State.respond respOk 1 { s with ready := true }

end Sys2Proof.Machine
end

