-- ==== Sys2Proof/Machine/Protocol.lean ====
section
/-! DEFINITION. The Command Protocol (spec 42): the command and data writes, the initialisation sequence, the page and
column address multiplexer, and the requests WRITE_COMMAND, WRITE_DATA, INIT_DISPLAY and SET_CURSOR. -/

namespace Sys2Proof.Machine

/-- WC(b): a command frame, then the settle wait (42 R90). -/
def commandWrite (b : Byte) : List Event := frame .cmd b ++ [.wait .settle]

/-- WD(b): a data frame with no wait (42 R93). -/
def dataWrite (b : Byte) : List Event := frame .data b

/-- The power-up and reset preamble of INIT_DISPLAY (42 R95). -/
def preamble : List Event := [.wait .power, .rst .on, .wait .reset, .rst .off]

/-- The events of INIT_DISPLAY (42 R96). -/
def displaySetup : List Event := preamble ++ initCommands.flatMap commandWrite ++ initFill.flatMap dataWrite

/-- SetCursorCore(p, c), the address multiplexer (42 R100). -/
def cursorWrite (p c : Byte) : List Event :=
  commandWrite (pageCommand p) ++ commandWrite (colHiCommand c) ++ commandWrite (colLoCommand c)

/-- WRITE_COMMAND (42 R91). -/
def execWriteCommand (b : Byte) (s : State) : Host.Outcome State Fault Refusal :=
  s.accept false fun s =>
    let s := s.latchByte b
    (s.emit (commandWrite s.opByte)).respond respOk 2

/-- WRITE_DATA (42 R94). -/
def execWriteData (b : Byte) (s : State) : Host.Outcome State Fault Refusal :=
  s.accept false fun s =>
    let s := s.latchByte b
    (s.emit (dataWrite s.opByte)).respond respOk 2

/-- INIT_DISPLAY (42 R96). -/
def execInitDisplay (s : State) : Host.Outcome State Fault Refusal :=
  s.accept false fun s => (s.emit displaySetup).forgetInitIdx.respond respOk 1

/-- SET_CURSOR: in the checked mode an address off the surface is answered 0x04 with no event (42 R101). -/
def execSetCursor (p c : Byte) (s : State) : Host.Outcome State Fault Refusal :=
  s.accept false fun s =>
    let s := s.latchCursor p c
    if s.cfg.checkedMode && offSurfaceOperands s.cfg s.opPage s.opCol then s.respond respOutOfRangeAddress 3
    else (s.emit (cursorWrite s.opPage s.opCol)).respond respOk 3

end Sys2Proof.Machine
end

