-- ==== Sys2Proof/Machine/Rendering.lean ====
section
/-! DEFINITION. Rendering (spec 43): the glyph column serializer, the requests RENDER_CHAR, RENDER_STRING and
CLEAR_SURFACE, and the later steps of a RENDER_STRING in progress (70 R191). -/

namespace Sys2Proof.Machine

/-- The data writes of one glyph whose first byte read is draw `d` (43 R112). -/
def glyphWrite (c : Config) (d : Nat) (a : Byte) : List Event := (glyphBytes c d (glyphIndex a)).flatMap dataWrite

/-- CNT_GLYPH at the end of its loop: GLYPH_WIDTH (10 R27, 43 R112). DESIGN CHOICE: GLYPH_WIDTH = 256, which 00 R5
allows, does not fit the 8 bits that 43 R112 says never overflow, and there the counter holds a free value (log entry
24). -/
def glyphLoopEnd (width d : Nat) : BitVec 8 := if width < 256 then BitVec.ofNat 8 width else Config.freeCntGlyph d

/-- RenderCharCore(a): GLYPH_WIDTH data writes, CNT_GLYPH counting to GLYPH_WIDTH (43 R112; log entry 24). -/
def State.renderGlyph (a : Byte) (s : State) : State :=
  { s.emit (glyphWrite s.cfg s.draws a) with
    cntGlyph := glyphLoopEnd s.cfg.glyphWidth s.draws, draws := s.draws + s.cfg.glyphWidth }

/-- RENDER_CHAR: in the checked mode a code out of the table is answered 0x05 with no event (43 R113). -/
def execRenderChar (a : Byte) (s : State) : Host.Outcome State Fault Refusal :=
  s.accept false fun s =>
    let s := s.latchChar a
    if s.cfg.checkedMode && unsupportedGlyph s.cfg s.opChar then s.respond respUnsupportedGlyph 2
    else (s.renderGlyph s.opChar).forgetGlyph.respond respOk 2

/-- The body of RENDER_STRING from SetCursorCore on: position the cursor and start at OP_ADDR (43 R115). -/
def State.startDrawing (s : State) : State :=
  { s.emit (cursorWrite s.opPage s.opCol) with textPtr := s.opAddr, seq := .busy .draw }

/-- RENDER_STRING: in the checked mode the string is read in full first, one byte a step; else drawing starts at once
(43 R115, 70 R191; log entry 12). -/
def execRenderString (p c : Byte) (a : Addr) (s : State) : Host.Outcome State Fault Refusal :=
  s.accept false fun s =>
    let s := (s.latchCursor p c).latchAddr a
    if s.cfg.checkedMode then { s with textPtr := s.opAddr, seq := .busy (.scan 0 false) } else s.startDrawing

/-- One step of drawing: the terminator ends the request, any other byte is drawn and TEXT_PTR advances modulo 2^16
(43 R114, R115). -/
def State.drawNext (s : State) : State :=
  let ch := s.text.read s.textPtr
  if ch = terminator then s.forgetGlyph.forgetTextPtr.respond respOk 5
  else { s.renderGlyph ch with textPtr := s.textPtr + 1 }

/-- One step of the checked mode's reading of the string: at the terminator the address is checked, then the glyphs;
a request that passes starts drawing (43 R115, 60 R164). -/
def State.scanNext (count : Nat) (unsupported : Bool) (s : State) : State :=
  let ch := s.text.read s.textPtr
  if ch = terminator then
    if stringOutOfRange s.cfg s.opPage s.opCol count then s.forgetTextPtr.respond respOutOfRangeAddress 5
    else if unsupported then s.forgetTextPtr.respond respUnsupportedGlyph 5
    else s.startDrawing
  else
    { s with
      textPtr := s.textPtr + 1
      seq := .busy (.scan (count + 1) (unsupported || unsupportedGlyph s.cfg ch)) }

/-- One step of the RENDER_STRING in progress (70 R191). -/
def State.continueString (s : State) : StringJob → State
  | .scan count unsupported => s.scanNext count unsupported
  | .draw => s.drawNext

/-- The sweep of one page: cursor at (p, 0), then COLUMNS writes of 0x00 (43 R117). -/
def pageSweep (c : Config) (p : Nat) : List Event :=
  cursorWrite (BitVec.ofNat 8 p) 0 ++ (List.replicate c.columns clearByte).flatMap dataWrite

/-- The sweep of pages 0 to PAGES, both ends included (43 R117). -/
def surfaceSweep (c : Config) : List Event := (List.range (c.pages + 1)).flatMap (pageSweep c)

/-- CLEAR_SURFACE (43 R117). -/
def execClearSurface (s : State) : Host.Outcome State Fault Refusal :=
  s.accept false fun s => (s.emit (surfaceSweep s.cfg)).forgetSweep.respond respOk 1

end Sys2Proof.Machine
end

