-- ==== Sys2Proof/Machine/Dispatch.lean ====
section
/-! DEFINITION. The dispatch: one arm per constructor of Instr. -/

namespace Sys2Proof.Machine

/-- The meaning of one instruction. -/
def exec (i : Instr) (s : State) : Host.Outcome State Fault Refusal :=
  match i with
  | .initBus => Sys2Proof.Machine.execInitBus s
  | .initDisplay => Sys2Proof.Machine.execInitDisplay s
  | .setCursor page column => Sys2Proof.Machine.execSetCursor page column s
  | .clearSurface => Sys2Proof.Machine.execClearSurface s
  | .renderChar ascii => Sys2Proof.Machine.execRenderChar ascii s
  | .renderString page column addr => Sys2Proof.Machine.execRenderString page column addr s
  | .writeCommand byte => Sys2Proof.Machine.execWriteCommand byte s
  | .writeData byte => Sys2Proof.Machine.execWriteData byte s
  | .adcSelect => Sys2Proof.Machine.execAdcSelect s
  | .displayOff => Sys2Proof.Machine.execDisplayOff s
  | .comDirSelect => Sys2Proof.Machine.execComDirSelect s
  | .pageAddr p => Sys2Proof.Machine.execPageAddr p s
  | .colAddrHi h => Sys2Proof.Machine.execColAddrHi h s
  | .colAddrLo l => Sys2Proof.Machine.execColAddrLo l s
  | .biasSelect => Sys2Proof.Machine.execBiasSelect s
  | .powerCtrl => Sys2Proof.Machine.execPowerCtrl s
  | .resRatio => Sys2Proof.Machine.execResRatio s
  | .displayOn => Sys2Proof.Machine.execDisplayOn s
  | .volumeMode => Sys2Proof.Machine.execVolumeMode s
  | .volumeLevel v => Sys2Proof.Machine.execVolumeLevel v s
  | .allPointsNormal => Sys2Proof.Machine.execAllPointsNormal s
  | .initOrigin40 => Sys2Proof.Machine.execInitOrigin40 s
  | .data d => Sys2Proof.Machine.execData d s

end Sys2Proof.Machine
end

