-- ==== Sys2Proof/Machine/Fetch.lean ====
section
/-! DEFINITION. Fetching: whose move it is (spec 00 R2, 20 R53), the controller's reading of the next bus event (44
R155, R157), the block's reading of the next request (30 R62), and placing an instruction to be fetched. -/

namespace Sys2Proof.Machine

/-- What a fetch gives: an instruction and the state it runs in, or a step that runs no instruction. -/
inductive Fetched where
  | instr (i : Instr) (s : State)
  | done (o : Host.Outcome State Fault Refusal)

/-- The controller has read one more event of the trace. -/
def State.readEvent (s : State) : State := { s with seen := s.seen + 1 }

/-- The observer after a reading. -/
def State.setLcd (o : Controller) (s : State) : State := { s with lcd := o }

/-- The controller reads `xfer(b)`: the instruction its channel gives it (44 R155, R157). A command byte with no
meaning loses the observer (44 R156). -/
def fetchByte (b : Byte) (s : State) : Fetched :=
  match s.lcd.channel with
  | none => .done (.next (s.setLcd s.lcd.ignoreByte))
  | some ch =>
    match decode ch [b] with
    | .ok (i, _) => .instr i s
    | .error _ => .done (.next (s.observe Controller.lose))

/-- The controller reads the next event of the trace. -/
def fetchEvent (s : State) : Event → Fetched
  | .xfer b => fetchByte b s
  | ev => .done (.next (s.setLcd (s.lcd.readLine s.cfg ev)))

/-- The fault of a request whose opcode is legal but whose operands are cut off: READY is checked first (30 R62, 60
R164). -/
def truncatedFault (op : Byte) (s : State) : State :=
  s.raiseFault ((readyFault (op == 0x01) s.ready).getD codeTruncatedRequest)

/-- The block's decoder at RIP (30 R62). At the end of the stream the run has ended (70 R190). -/
def fetchRequest (s : State) : Fetched :=
  match decode .request (s.stream.drop s.rip) with
  | .ok (i, _) => .instr i s
  | .error (.illegalRequest _) => .done (.next (s.raiseFault codeIllegalRequest))
  | .error (.truncatedRequest op) => .done (.next (truncatedFault op s))
  | .error _ => .done (.refused .endOfRun)

/-- The next thing to run. The controller reads every event before the sequencer moves on (20 R53; log entry 1). -/
def fetch (s : State) : Fetched :=
  match s.trace[s.seen]? with
  | some ev => fetchEvent s.readEvent ev
  | none =>
    match s.seq with
    | .idle => fetchRequest s
    | .busy job => .done (.next (s.continueString job))
    | .halted => .done (.fault (.halted s.fault))

/-- Place request bytes at RIP, with SEQ, READY and the unread events as accepting that request needs them. -/
def placeRequest (op : Byte) (bytes : List Byte) (s : State) : State :=
  { s with
    stream := (s.stream ++ List.replicate s.rip 0).take s.rip ++ bytes
    seq := .idle
    ready := op != 0x01
    trace := s.trace.take s.seen }

/-- Place a command byte on the bus as the controller's next unread event, inside a command frame. -/
def placeCommand (b : Byte) (s : State) : State :=
  { s with
    trace := s.trace.take s.seen ++ [.xfer b]
    seen := (s.trace.take s.seen).length
    lcd := { s.lcd with cs := some .on, dc := some .cmd, pulse := .released, volPending := false } }

/-- Place an opcode-table word where it is fetched next: a request at RIP, or else a command byte on the bus (log
entries 3 and 19). -/
def placeWord (nbits w : Nat) (s : State) : State :=
  let bytes := tableBytes nbits w
  match bytes.head? with
  | none => s
  | some op => if 0x01 ≤ op.toNat ∧ op.toNat ≤ 0x08 then placeRequest op bytes s else placeCommand op s

end Sys2Proof.Machine
end

