-- ==== Sys2Proof/WellFormed.lean ====
section
/-! DEFINITION. What is well formed: an instruction on the channel it is read from (30 R61, R74; 44 R155, R157), and a
configuration within the bounds of 00 R5. The operand fields have exactly the widths of the encodings, so any operand
value is legal (10 R26, 30 R68). -/

namespace Sys2Proof

/-- The requests of 30 R61. -/
def Instr.isRequest : Instr → Bool
  | .initBus | .initDisplay | .setCursor _ _ | .clearSurface | .renderChar _ | .renderString _ _ _
  | .writeCommand _ | .writeData _ => true
  | .adcSelect | .displayOff | .comDirSelect | .pageAddr _ | .colAddrHi _ | .colAddrLo _ | .biasSelect | .powerCtrl
  | .resRatio | .displayOn | .volumeMode | .volumeLevel _ | .allPointsNormal | .initOrigin40 | .data _ => false

/-- The volume level, the one command of two bytes' second (44 R141). -/
def Instr.isLevel : Instr → Bool
  | .volumeLevel _ => true
  | .initBus | .initDisplay | .setCursor _ _ | .clearSurface | .renderChar _ | .renderString _ _ _
  | .writeCommand _ | .writeData _ | .adcSelect | .displayOff | .comDirSelect | .pageAddr _ | .colAddrHi _
  | .colAddrLo _ | .biasSelect | .powerCtrl | .resRatio | .displayOn | .volumeMode | .allPointsNormal
  | .initOrigin40 | .data _ => false

/-- The data byte (44 R145). -/
def Instr.isData : Instr → Bool
  | .data _ => true
  | .initBus | .initDisplay | .setCursor _ _ | .clearSurface | .renderChar _ | .renderString _ _ _
  | .writeCommand _ | .writeData _ | .adcSelect | .displayOff | .comDirSelect | .pageAddr _ | .colAddrHi _
  | .colAddrLo _ | .biasSelect | .powerCtrl | .resRatio | .displayOn | .volumeMode | .volumeLevel _
  | .allPointsNormal | .initOrigin40 => false

/-- Whether the instruction can be read on this channel. The requests come from the request stream. The command byte
directly after 0x81 is the volume level whatever its value, and no other command byte is (30 R74, 44 R141). -/
def Instr.wellFormed (ch : Channel) (i : Instr) : Bool :=
  match ch with
  | .request => i.isRequest
  | .command true => i.isLevel
  | .command false => !i.isRequest && !i.isLevel && !i.isData
  | .data => i.isData

/-- The bounds of 00 R5 and the shape of the glyph table (43 R120): 1 <= PAGES <= 15, 1 <= GLYPH_WIDTH <= COLUMNS
<= 256, 1 <= GLYPH_COUNT <= 256, and a ROM of GLYPH_COUNT entries of exactly GLYPH_WIDTH bytes. -/
def Config.wf (c : Config) : Bool :=
  decide (1 ≤ c.pages) && decide (c.pages ≤ 15)
    && decide (1 ≤ c.glyphWidth) && decide (c.glyphWidth ≤ c.columns) && decide (c.columns ≤ 256)
    && decide (1 ≤ c.glyphCount) && decide (c.glyphCount ≤ 256)
    && decide (c.glyphRom.length = c.glyphCount)
    && c.glyphRom.all fun g => decide (g.length = c.glyphWidth)

end Sys2Proof
end

