-- ==== Sys2Proof/Safety.lean ====
section
/-! DEFINITION. The terms claims are stated in: the observer as a function of the trace alone (spec 44 R151 to
R157, R159), the reset pulses of a trace (44 R154), the shape of a trace (42 R92), the string at a TEXT address (43
R114), the end of a run (70 R190), and the invariants of the machine. -/

namespace Sys2Proof.Machine

/-! The reference observer as one function of an event, written from the rules without the functions by which
the step reads the lines, a pulse or a data byte -/

/-- The reading of a command byte, case by case (44 R157). -/
def Controller.readCommand (b : Byte) (o : Controller) : Controller :=
  if o.volPending then { o with regs := { o.regs with volume := some b }, volPending := false }
  else if b = 0x81 then { o with volPending := true }
  else if b &&& 0xF0 = 0xB0 then { o with page := some (lowNibble b) }
  else if b &&& 0xF0 = 0x10 then { o with colHi := some (lowNibble b) }
  else if b &&& 0xF0 = 0x00 then { o with colLo := some (lowNibble b) }
  else if b = 0xA0 then { o with regs := { o.regs with adc := some b } }
  else if b = 0xAE ∨ b = 0xAF then { o with regs := { o.regs with display := some b } }
  else if b = 0xC8 then { o with regs := { o.regs with comDir := some b } }
  else if b = 0xA3 then { o with regs := { o.regs with bias := some b } }
  else if b = 0x2F then { o with regs := { o.regs with power := some b } }
  else if b = 0x26 then { o with regs := { o.regs with ratio := some b } }
  else if b = 0xA4 then { o with regs := { o.regs with allPoints := some b } }
  else if b = 0x40 then { o with regs := { o.regs with startLine := some b } }
  else { o with valid := false }

/-- The column latch set to a column, both nibbles unknown for none (44 R151). -/
def Controller.setColumn (x : Option Nat) (o : Controller) : Controller :=
  { o with colHi := x.map fun col => BitVec.ofNat 4 (col / 16), colLo := x.map fun col => BitVec.ofNat 4 col }

/-- The known cells after a data byte, case by case: the page unknown (44 R153; log entry 16), a page off the surface
(R153), the column unknown (R152), a column off the surface (R153), and a cell of the surface (R151). -/
def Controller.cellsAfter (c : Config) (b : Byte) (o : Controller) : List Host.Cell :=
  match o.page with
  | none => []
  | some p =>
    if c.pages ≤ p.toNat then if c.offSurfaceIsolated then o.vram else []
    else
      match o.column with
      | none => if c.offSurfaceIsolated then o.vram.filter fun x => decide (x.1 / 256 ≠ p.toNat) else []
      | some col =>
        if c.columns ≤ col then if c.offSurfaceIsolated then o.vram else [] else cellPut o.vram (cellKey p.toNat col) b

/-- The reading of a data byte: inside the volume pair VALID turns false and no other field changes (44 R156; log
entry 17); else the cells, and the column, which is C + 1 while that is below COLUMNS and unknown otherwise (R151 to
R153; log entry 15). -/
def Controller.readData (c : Config) (b : Byte) (o : Controller) : Controller :=
  if o.volPending then { o with valid := false }
  else
    { o with vram := o.cellsAfter c b }.setColumn
      (o.column.bind fun col => if col + 1 < c.columns then some (col + 1) else none)

/-- The reading of `xfer(b)`: unread outside a frame (44 R155), ignored while RST is asserted, where it spoils the
pulse (R154; log entry 11), unread with VALID false (R155), else a command or a data byte as DC says, and unread while
DC was never driven (R155; log entry 11). -/
def Controller.readByte (c : Config) (b : Byte) (o : Controller) : Controller :=
  if o.cs ≠ some .on then o
  else if o.pulse ≠ .released then { o with pulse := .spoiled }
  else if o.valid = false then o
  else
    match o.dc with
    | some .cmd => o.readCommand b
    | some .data => o.readData c b
    | none => o

/-- Whether a wait is at least T_RESET, by the nominal durations (44 R154; log entry 20). -/
def coversReset (c : Config) : Duration → Bool
  | .reset => true
  | .power => decide (c.tReset ≤ c.tPower)
  | .settle => decide (c.tReset ≤ c.tSettle)

/-- The observer after one event. At `rst(OFF)` a pulse that is complete leaves VALID true and everything else unknown;
one that is not changes nothing else (44 R154). -/
def Controller.after (c : Config) (o : Controller) : Event → Controller
  | .xfer b => o.readByte c b
  | .dc m => { o with dc := some m }
  | .cs x => { o with cs := some x }
  | .rst .on => { o with pulse := .asserted }
  | .rst .off =>
    if o.pulse = .held then { Controller.initial with valid := true, cs := o.cs, dc := o.dc }
    else { o with pulse := .released }
  | .wait d => if o.pulse = .asserted ∧ coversReset c d = true then { o with pulse := .held } else o
  | .cfgDir => o
  | .cfgSpi _ => o
  | .clrStatus => o

/-- The observer after a list of events. -/
def Controller.afterAll (c : Config) (o : Controller) (evs : List Event) : Controller :=
  evs.foldl (Controller.after c) o

/-- The controller has read every event of the trace. -/
abbrev State.caughtUp (s : State) : Prop := s.seen = s.trace.length

/-! Reset pulses, from the events alone (44 R154) -/

/-- The level CS was last driven to, none before any. -/
def csAfter : List Event → Option Switch :=
  List.foldl (fun x ev => match ev with | .cs y => some y | _ => x) none

/-- RST was last driven by the `rst(ON)` that parts the events, and no byte of a frame came after it (44 R154; log entry
11). -/
def pulseParts (evs before inside : List Event) : Prop :=
  evs = before ++ .rst .on :: inside
    ∧ (∀ x, .rst x ∉ inside)
    ∧ ∀ b i j, inside = i ++ .xfer b :: j → csAfter (before ++ .rst .on :: i) ≠ some .on

/-- The events end in a reset pulse that `rst(OFF)` would complete: `rst(ON)`, and after it no other RST event, no byte
of a frame, and a wait of at least T_RESET (44 R154; log entries 11 and 20). -/
def pulseHeld (c : Config) (evs : List Event) : Prop :=
  ∃ before inside, pulseParts evs before inside ∧ ∃ d, .wait d ∈ inside ∧ coversReset c d = true

/-! The shape of a trace -/

/-- The five events of one command byte (42 R90). -/
def wcEvents (b : Byte) : List Event := [.dc .cmd, .cs .on, .xfer b, .cs .off, .wait .settle]

/-- The four events of one data byte (42 R93). -/
def wdEvents (b : Byte) : List Event := [.dc .data, .cs .on, .xfer b, .cs .off]

/-- The fifteen events that position the cursor (42 R100). -/
def cursorEvents (p c : Byte) : List Event :=
  wcEvents (0xB0 ||| (p &&& 0x0F)) ++ wcEvents (0x10#8 ||| ((c >>> 4) &&& 0x0F)) ++ wcEvents (c &&& 0x0F)

/-- Every byte travels in a frame of its own, and every command frame is followed by its settle wait (41 R81, 42
R92). -/
def wellFramed : List Event → Bool
  | [] => true
  | .dc .cmd :: .cs .on :: .xfer _ :: .cs .off :: .wait .settle :: rest => wellFramed rest
  | .dc .data :: .cs .on :: .xfer _ :: .cs .off :: rest => wellFramed rest
  | .cfgDir :: rest => wellFramed rest
  | .cfgSpi _ :: rest => wellFramed rest
  | .clrStatus :: rest => wellFramed rest
  | .rst _ :: rest => wellFramed rest
  | .wait _ :: rest => wellFramed rest
  | _ => false

/-! Strings -/

/-- The byte `k` places after a TEXT address, wrapping modulo 2^16 (43 R114). -/
def textAt (m : Memory) (a : Addr) (k : Nat) : Byte := m.read (a + BitVec.ofNat 16 k)

/-- The string at `a` has `n` bytes before its terminator (43 R114). -/
def stringOfLength (m : Memory) (a : Addr) (n : Nat) : Prop :=
  (∀ k, k < n → textAt m a k ≠ 0x00) ∧ textAt m a n = 0x00

/-- Every character of the string is in the glyph table (43 R115). -/
def stringInTable (c : Config) (m : Memory) (a : Addr) (n : Nat) : Prop :=
  ∀ k, k < n → glyphIndex (textAt m a k) < c.glyphCount

/-- The table bytes of the string's characters, in order (43 R115). -/
def stringGlyphBytes (c : Config) (m : Memory) (a : Addr) (n : Nat) : List Byte :=
  (List.range n).flatMap fun k => (c.glyphRom[glyphIndex (textAt m a k)]?).getD []

/-! The end of a run (70 R190) -/

/-- Final: SEQ = IDLE, FAULT = 0x00, RIP = L, and every event read. -/
abbrev State.final (s : State) : Prop :=
  s.seq = .idle ∧ s.fault = 0x00 ∧ s.rip = s.stream.length ∧ s.caughtUp

/-- Faulted: SEQ = HALTED with FAULT not 0x00. -/
abbrev State.faulted (s : State) : Prop := s.seq = .halted ∧ s.fault ≠ 0x00

/-! Invariants -/

/-- The observer is the function of the events it has read, and of nothing else (44 R159). -/
abbrev State.observerInv (s : State) : Prop :=
  s.seen ≤ s.trace.length ∧ s.lcd = Controller.initial.afterAll s.cfg (s.trace.take s.seen)

/-- The lines and SPI_CFG hold what the events of the trace last drove (10 R28, R29). -/
abbrev State.linesInv (s : State) : Prop := s.lines = s.trace.foldl Lines.drive Lines.reset

/-- Between steps no frame is open and no reset pulse is in progress: CS and RST are not ON (41 R81, 42 R95). -/
abbrev State.linesAtRest (s : State) : Prop := s.lines.cs ≠ some .on ∧ s.lines.rst ≠ some .on

/-- HALTED and a non-zero FAULT go together, FAULT and RESP hold legal codes, and in the default mode RESP is 0x00
and no string is read ahead (10 R24, R25, R31, R32; 43 R115). -/
abbrev State.statusInv (s : State) : Prop :=
  (s.seq = .halted ↔ s.fault ≠ 0x00) ∧ s.fault ∈ [0x00, 0x01, 0x02, 0x03, 0x06] ∧ s.resp ∈ [0x00, 0x04, 0x05]
    ∧ (s.cfg.checkedMode = false → s.resp = 0x00 ∧ ∀ n u, s.seq ≠ .busy (.scan n u))

/-- READY goes with configured lines, and before INIT_BUS the block has emitted nothing (10 R23, 41 R84, 60 R161). -/
abbrev State.readyInv (s : State) : Prop :=
  (s.ready = true → s.lines.dir = .output
    ∧ s.lines.spi = { master := some true, mode := some s.cfg.spiMode, order := some .msbFirst })
  ∧ (s.ready = false → s.trace = [] ∧ s.lines = .reset ∧ (s.seq = .idle ∨ s.seq = .halted))

/-- RIP stays within the stream, and a RENDER_STRING in progress lies wholly inside it (10 R21). -/
abbrev State.ripInv (s : State) : Prop :=
  s.rip ≤ s.stream.length ∧ (s.isBusy = true → s.rip + 5 ≤ s.stream.length)

/-- TEXT memory and the observer's known cells keep their canonical form. -/
abbrev State.memoryInv (s : State) : Prop := s.text.wf = true ∧ s.lcd.vramWf s.cfg = true

end Sys2Proof.Machine
end

