-- ==== Sys2Proof/Certificates/Slice0/Obligations.lean ====
section
/-! DEFINITION. The statements for the provers. Each docstring names the rule of spec/ it formalises, or says that it
is derived. -/

open Sys2Proof Sys2Proof.Machine

/-! ## Encoding -/

/-- Decoding the encoding of an instruction on a channel that may carry it gives it back, with every operand, and
leaves the bytes after it (derived from 30 R61, R66, R70, R74; 44 R141, R145). -/
def Obligations.DecodeOfEncode : Prop :=
  ∀ (ch : Channel) (i : Instr) (rest : List Byte),
    i.wellFormed ch = true → decode ch (encode i ++ rest) = .ok (i, rest)

/-- What a decoder accepts is exactly the encoding of a well-formed instruction, of its length, so no bytes have two
readings on one channel (derived from 30 R61, R69, R70, R74). -/
def Obligations.DecodeAcceptsOnlyEncodings : Prop :=
  ∀ (ch : Channel) (bs : List Byte) (i : Instr) (rest : List Byte),
    decode ch bs = .ok (i, rest) → i.wellFormed ch = true ∧ bs = encode i ++ rest ∧ (encode i).length = i.len

/-- Words written out from 30 R61 and R70: one of each request, and command bytes of each format (derived). -/
def Obligations.WordsOfTheSpecDecode : Prop :=
  decode .request [0x01] = .ok (.initBus, [])
    ∧ decode .request [0x02] = .ok (.initDisplay, [])
    ∧ decode .request [0x03, 0x02, 0x64] = .ok (.setCursor 2 100, [])
    ∧ decode .request [0x04] = .ok (.clearSurface, [])
    ∧ decode .request [0x05, 0x41] = .ok (.renderChar 0x41, [])
    ∧ decode .request [0x06, 0x02, 0x0A, 0x00, 0x01] = .ok (.renderString 2 10 0x0100, [])
    ∧ decode .request [0x07, 0xAF] = .ok (.writeCommand 0xAF, [])
    ∧ decode .request [0x08, 0x3C] = .ok (.writeData 0x3C, [])
    ∧ decode (.command false) [0xBA] = .ok (.pageAddr 10, [])
    ∧ decode (.command false) [0x16] = .ok (.colAddrHi 6, [])
    ∧ decode (.command false) [0x07] = .ok (.colAddrLo 7, [])
    ∧ decode (.command true) [0x07] = .ok (.volumeLevel 0x07, [])
    ∧ decode (.command false) [0xC8] = .ok (.comDirSelect, [])
    ∧ decode .data [0x7E] = .ok (.data 0x7E, [])

/-- The three command bytes of the cursor multiplexer are the encodings of PAGE_ADDR, COL_ADDR_HI and COL_ADDR_LO
with the nibbles of the operands (derived from 42 R100, 30 R70). -/
def Obligations.CursorBytesAreAddressCommands : Prop :=
  ∀ p c : Byte,
    [pageCommand p] = encode (.pageAddr (p.extractLsb' 0 4))
      ∧ [colHiCommand c] = encode (.colAddrHi (c.extractLsb' 4 4))
      ∧ [colLoCommand c] = encode (.colAddrLo (c.extractLsb' 0 4))

/-- MOSI carries b[7] first and b[0] last (20 R45). -/
def Obligations.MosiCarriesTheHighBitFirst : Prop :=
  ∀ b : Byte,
    mosiBits b = [b.getLsbD 7, b.getLsbD 6, b.getLsbD 5, b.getLsbD 4, b.getLsbD 3, b.getLsbD 2, b.getLsbD 1, b.getLsbD 0]

/-! ## The step -/

/-- When the controller has read every event and SEQ = IDLE, the request at RIP is run: the step is its meaning
(derived from 30 R62 and log entry 1). -/
def Obligations.StepRunsTheRequestAtRip : Prop :=
  ∀ (s : State) (i : Instr) (rest : List Byte),
    s.trace.length ≤ s.seen → s.seq = .idle → decode .request (s.stream.drop s.rip) = .ok (i, rest) →
      step s = exec i s

/-- When the next unread event is a byte inside a frame, RST not asserted, the step is the meaning of the command or
data byte it decodes to, the event having been read (derived from 44 R155, R157 and log entry 1). -/
def Obligations.StepRunsTheByteOfAFrame : Prop :=
  ∀ (s : State) (b : Byte) (m : Mode) (i : Instr) (rest : List Byte),
    s.trace[s.seen]? = some (.xfer b) → s.lcd.cs = some .on → s.lcd.pulse = .released → s.lcd.dc = some m →
    decode (match m with | .cmd => .command s.lcd.volPending | .data => .data) [b] = .ok (i, rest) →
      step s = exec i { s with seen := s.seen + 1 }

/-- The machine stops exactly where a run ends, every event read: faulted, when SEQ = HALTED, and refused, when SEQ =
IDLE with RIP at the end of the stream (derived from 70 R190, 60 R165; the two outcomes are the model's, log entry
10). -/
def Obligations.MachineStopsExactlyAtTheEndOfARun : Prop :=
  ∀ s : State,
    (∀ f, step s = .fault f ↔ s.trace.length ≤ s.seen ∧ s.seq = .halted ∧ f = .halted s.fault)
    ∧ (∀ r, step s = .refused r ↔
        s.trace.length ≤ s.seen ∧ s.seq = .idle ∧ s.stream.length ≤ s.rip ∧ r = .endOfRun)

/-! ## Fatal faults -/

/-- A reserved opcode raises IllegalRequest, whatever READY is: FAULT and SEQ are written and nothing else (derived
from 30 R68, 60 R163). -/
def Obligations.ReservedOpcodeFaults : Prop :=
  ∀ (s : State) (op : Byte) (rest : List Byte),
    s.trace.length ≤ s.seen → s.seq = .idle → s.stream.drop s.rip = op :: rest →
    (op = 0x00 ∨ 0x09 ≤ op.toNat) →
      step s = .next { s with fault := 0x01, seq := .halted }

/-- Any request but INIT_BUS with READY = 0 raises BusNotInitialised, also when its operands are cut off (derived
from 10 R23, 60 R161, R164). -/
def Obligations.RequestBeforeInitBusFaults : Prop :=
  ∀ (s : State) (op : Byte) (rest : List Byte),
    s.trace.length ≤ s.seen → s.seq = .idle → s.stream.drop s.rip = op :: rest →
    0x02 ≤ op.toNat → op.toNat ≤ 0x08 → s.ready = false →
      step s = .next { s with fault := 0x02, seq := .halted }

/-- INIT_BUS with READY = 1 raises BusReinitialised (derived from 10 R23, 60 R160). -/
def Obligations.SecondInitBusFaults : Prop :=
  ∀ (s : State) (rest : List Byte),
    s.trace.length ≤ s.seen → s.seq = .idle → s.stream.drop s.rip = 0x01 :: rest → s.ready = true →
      step s = .next { s with fault := 0x03, seq := .halted }

/-- A stream that ends inside a request raises TruncatedRequest when READY = 1 (derived from 30 R69, 60 R160). -/
def Obligations.TruncatedRequestFaults : Prop :=
  ∀ (s : State) (op : Byte) (rest : List Byte),
    s.trace.length ≤ s.seen → s.seq = .idle → s.stream.drop s.rip = op :: rest → s.ready = true →
    (op = 0x03 ∧ rest.length < 2 ∨ op = 0x05 ∧ rest.length < 1 ∨ op = 0x06 ∧ rest.length < 4
      ∨ op = 0x07 ∧ rest.length < 1 ∨ op = 0x08 ∧ rest.length < 1) →
      step s = .next { s with fault := 0x06, seq := .halted }

/-- The meaning of every request takes the fault of the READY check: FAULT and SEQ are written and nothing else, and
no event is emitted (derived from 60 R163, R160). -/
def Obligations.RequestTakesTheReadyFault : Prop :=
  ∀ (s : State) (i : Instr),
    (s.ready = true → exec .initBus s = .next { s with fault := 0x03, seq := .halted })
      ∧ (s.ready = false → i.wellFormed .request = true → i ≠ .initBus →
          exec i s = .next { s with fault := 0x02, seq := .halted })

/-- A step of a halted machine leaves the whole block as it is, only the controller goes on reading, until block reset
(60 R165). -/
def Obligations.HaltedBlockStaysHalted : Prop :=
  ∀ s : State, s.seq = .halted →
    (∀ t, step s = .next t → t = { s with seen := t.seen, lcd := t.lcd }) ∧ s.blockReset.seq = .idle

/-- Block reset from any state: the fields the spec gives a reset value hold it (70 R180). -/
def Obligations.BlockResetGivesTheResetValues : Prop :=
  ∀ s t : State, (t = s.blockReset ∨ t = State.reset) →
    t.rip = 0 ∧ t.seq = .idle ∧ t.ready = false ∧ t.fault = 0x00 ∧ t.resp = 0x00 ∧ t.lines.dir = .unconfigured
      ∧ t.lines.cs = none ∧ t.lines.dc = none ∧ t.lines.rst = none
      ∧ t.lines.spi = { master := none, mode := none, order := none } ∧ t.trace = []

/-- STATUS: READY, BUSY, HALTED and CHECKED in bits 0 to 3, and bits 7:4 read 0 (derived from 10 R32). -/
def Obligations.StatusPacksTheFlags : Prop :=
  ∀ s : State,
    (s.status.getLsbD 0 = true ↔ s.ready = true)
      ∧ (s.status.getLsbD 1 = true ↔ ∃ job, s.seq = .busy job)
      ∧ (s.status.getLsbD 2 = true ↔ s.seq = .halted)
      ∧ (s.status.getLsbD 3 = true ↔ s.cfg.checkedMode = true)
      ∧ s.status.toNat < 16

/-! ## Requests: result, completion and frame -/

/-- INIT_BUS with READY = 0: three events, configured lines, READY, the response, and nothing else; SPI_STATUS is
left at an unspecified value. With READY = 1 it faults before any event (41 R84). -/
def Obligations.InitBusConfiguresTheBus : Prop :=
  ∀ s : State,
    (s.ready = true → exec .initBus s = .next { s with fault := 0x03, seq := .halted })
    ∧ (s.ready = false → ∃ v n, exec .initBus s = .next { s with
      trace := s.trace ++ [.cfgDir, .cfgSpi s.cfg.spiMode, .clrStatus]
      lines := { s.lines with
        dir := .output
        spi := { master := some true, mode := some s.cfg.spiMode, order := some .msbFirst } }
      spiStatus := v, draws := n, ready := true
      resp := 0x00, responses := s.responses ++ [0x00], rip := s.rip + 1, seq := .idle })

/-- WRITE_COMMAND sends its byte unchanged in a command frame with the settle wait (42 R90). -/
def Obligations.WriteCommandSendsTheByte : Prop :=
  ∀ (s : State) (b : Byte), s.ready = true →
    exec (.writeCommand b) s = .next { s with
      opByte := b
      trace := s.trace ++ [.dc .cmd, .cs .on, .xfer b, .cs .off, .wait .settle]
      lines := { s.lines with dc := some .cmd, cs := some .off }
      resp := 0x00, responses := s.responses ++ [0x00], rip := s.rip + 2, seq := .idle }

/-- WRITE_DATA sends its byte unchanged in a data frame with no wait (42 R93). -/
def Obligations.WriteDataSendsTheByte : Prop :=
  ∀ (s : State) (b : Byte), s.ready = true →
    exec (.writeData b) s = .next { s with
      opByte := b
      trace := s.trace ++ [.dc .data, .cs .on, .xfer b, .cs .off]
      lines := { s.lines with dc := some .data, cs := some .off }
      resp := 0x00, responses := s.responses ++ [0x00], rip := s.rip + 2, seq := .idle }

/-- INIT_DISPLAY: the preamble, the fourteen command bytes in order and five data writes of 0xFF, in either mode;
INIT_IDX is unspecified afterwards. With READY = 0 it faults (42 R95, R96). -/
def Obligations.InitDisplaySendsTheSequence : Prop :=
  ∀ s : State,
    (s.ready = false → exec .initDisplay s = .next { s with fault := 0x02, seq := .halted })
    ∧ (s.ready = true → ∃ v n, exec .initDisplay s = .next { s with
      trace := s.trace ++ ([.wait .power, .rst .on, .wait .reset, .rst .off]
        ++ [0xA0, 0xAE, 0xC8, 0xA3, 0x2F, 0x26, 0x81, 0x07, 0xAF, 0xA4, 0x40, 0xB0, 0x10, 0x00].flatMap wcEvents
        ++ [0xFF, 0xFF, 0xFF, 0xFF, 0xFF].flatMap wdEvents)
      lines := { s.lines with dc := some .data, cs := some .off, rst := some .off }
      initIdx := v, draws := n
      resp := 0x00, responses := s.responses ++ [0x00], rip := s.rip + 1, seq := .idle })

/-- SET_CURSOR, in the default mode or with operands on the surface: the three address commands (42 R100). -/
def Obligations.SetCursorSendsTheAddress : Prop :=
  ∀ (s : State) (p c : Byte), s.ready = true →
    (s.cfg.checkedMode = false ∨ p.toNat < s.cfg.pages ∧ c.toNat < s.cfg.columns) →
    exec (.setCursor p c) s = .next { s with
      opPage := p, opCol := c
      trace := s.trace ++ cursorEvents p c
      lines := { s.lines with dc := some .cmd, cs := some .off }
      resp := 0x00, responses := s.responses ++ [0x00], rip := s.rip + 3, seq := .idle }

/-- The checked mode's error responses of SET_CURSOR and RENDER_CHAR: OutOfRangeAddress for a page or column off the
surface, UnsupportedGlyph for a code out of the table, the operands latched, RIP past the request and no event
(derived from 42 R101, 43 R113, 60 R162). -/
def Obligations.CheckedModeRespondsWithoutEvents : Prop :=
  ∀ s : State, s.ready = true → s.cfg.checkedMode = true →
    (∀ p c : Byte, (s.cfg.pages ≤ p.toNat ∨ s.cfg.columns ≤ c.toNat) →
      exec (.setCursor p c) s = .next { s with
        opPage := p, opCol := c
        resp := 0x04, responses := s.responses ++ [0x04], rip := s.rip + 3, seq := .idle })
    ∧ (∀ a : Byte, s.cfg.glyphCount ≤ (a - 0x20).toNat →
      exec (.renderChar a) s = .next { s with
        opChar := a
        resp := 0x05, responses := s.responses ++ [0x05], rip := s.rip + 2, seq := .idle })

/-- CLEAR_SURFACE: for each page 0 to PAGES, the cursor at (page, 0) and COLUMNS data writes of 0x00, in either mode;
the sweep counters are unspecified afterwards. With READY = 0 it faults (43 R117). -/
def Obligations.ClearSurfaceSweepsEveryPage : Prop :=
  ∀ s : State, s.cfg.wf = true →
    (s.ready = false → exec .clearSurface s = .next { s with fault := 0x02, seq := .halted })
    ∧ (s.ready = true → ∃ v w n, exec .clearSurface s = .next { s with
      trace := s.trace ++ (List.range (s.cfg.pages + 1)).flatMap fun p =>
        wcEvents (0xB0 ||| BitVec.ofNat 8 p) ++ wcEvents 0x10 ++ wcEvents 0x00
          ++ (List.replicate s.cfg.columns 0x00).flatMap wdEvents
      lines := { s.lines with dc := some .data, cs := some .off }
      cntPage := v, cntCol := w, draws := n
      resp := 0x00, responses := s.responses ++ [0x00], rip := s.rip + 1, seq := .idle })

/-- CLEAR_SURFACE emits (PAGES + 1) × (15 + 4 × COLUMNS) events, of which (PAGES + 1) × COLUMNS begin a data frame and
(PAGES + 1) × 3 a command frame (derived from 43 R117, R118). -/
def Obligations.ClearSurfaceEventCount : Prop :=
  ∀ s : State, s.ready = true →
    ∃ t evs, exec .clearSurface s = .next t ∧ t.trace = s.trace ++ evs
      ∧ evs.length = (s.cfg.pages + 1) * (15 + 4 * s.cfg.columns)
      ∧ (evs.filter fun e => e == .dc .data).length = (s.cfg.pages + 1) * s.cfg.columns
      ∧ (evs.filter fun e => e == .dc .cmd).length = (s.cfg.pages + 1) * 3

/-- RENDER_CHAR of a code in the table: its GLYPH_WIDTH bytes in order, in either mode; CNT_GLYPH is unspecified
afterwards (derived from 43 R110 to R113). -/
def Obligations.RenderCharSendsTheGlyph : Prop :=
  ∀ (s : State) (a : Byte) (glyph : List Byte), s.ready = true → s.cfg.wf = true →
    s.cfg.glyphRom[(a - 0x20).toNat]? = some glyph →
    ∃ v n, exec (.renderChar a) s = .next { s with
      opChar := a
      trace := s.trace ++ glyph.flatMap wdEvents
      lines := { s.lines with dc := some .data, cs := some .off }
      cntGlyph := v, draws := n
      resp := 0x00, responses := s.responses ++ [0x00], rip := s.rip + 2, seq := .idle }

/-- RENDER_CHAR of a code out of the table in the default mode does not fault: it sends GLYPH_WIDTH bytes, whatever
they are (derived from 43 R111, R113). -/
def Obligations.RenderCharOutOfTableCompletes : Prop :=
  ∀ (s : State) (a : Byte), s.ready = true → s.cfg.wf = true → s.cfg.checkedMode = false →
    s.cfg.glyphCount ≤ (a - 0x20).toNat →
    ∃ (bytes : List Byte) (v : BitVec 8) (n : Nat), bytes.length = s.cfg.glyphWidth
      ∧ exec (.renderChar a) s = .next { s with
        opChar := a
        trace := s.trace ++ bytes.flatMap wdEvents
        lines := { s.lines with dc := some .data, cs := some .off }
        cntGlyph := v, draws := n
        resp := 0x00, responses := s.responses ++ [0x00], rip := s.rip + 2, seq := .idle }

/-- RENDER_STRING's first step: in the default mode the cursor is positioned and drawing starts at OP_ADDR; in the
checked mode nothing is emitted and the reading of the string starts there (derived from 43 R115, 70 R191; the step
is the model's, log entry 12). -/
def Obligations.RenderStringStarts : Prop :=
  ∀ (s : State) (p c : Byte) (a : Addr), s.ready = true →
    (s.cfg.checkedMode = false →
      exec (.renderString p c a) s = .next { s with
        opPage := p, opCol := c, opAddr := a, textPtr := a, seq := .busy .draw
        trace := s.trace ++ cursorEvents p c
        lines := { s.lines with dc := some .cmd, cs := some .off } })
    ∧ (s.cfg.checkedMode = true →
      exec (.renderString p c a) s = .next { s with
        opPage := p, opCol := c, opAddr := a, textPtr := a, seq := .busy (.scan 0 false) })

/-- A drawing step at a character of the glyph table emits its glyph and moves TEXT_PTR on, modulo 2^16; nothing else
changes but CNT_GLYPH (derived from 43 R114, R115 and log entry 12). -/
def Obligations.DrawingStepSendsTheCharacter : Prop :=
  ∀ (s : State) (glyph : List Byte), s.trace.length ≤ s.seen → s.seq = .busy .draw → s.cfg.wf = true →
    s.text.read s.textPtr ≠ 0x00 → s.cfg.glyphRom[(s.text.read s.textPtr - 0x20).toNat]? = some glyph →
    ∃ v n, step s = .next { s with
      trace := s.trace ++ glyph.flatMap wdEvents
      lines := { s.lines with dc := some .data, cs := some .off }
      textPtr := s.textPtr + 1, cntGlyph := v, draws := n }

/-- A drawing step at the terminator ends the request: response 0x00, RIP past its five bytes, no event
(derived from 43 R115 and log entry 12). -/
def Obligations.DrawingStepEndsAtTheTerminator : Prop :=
  ∀ s : State, s.trace.length ≤ s.seen → s.seq = .busy .draw → s.text.read s.textPtr = 0x00 →
    ∃ v w n, step s = .next { s with
      textPtr := v, cntGlyph := w, draws := n
      resp := 0x00, responses := s.responses ++ [0x00], rip := s.rip + 5, seq := .idle }

/-- RENDER_STRING runs to completion when the string is terminated and, in the checked mode, passes the checks: from
the request at RIP some number of steps ends it with response 0x00, having emitted one cursor positioning and then
GLYPH_WIDTH data bytes per character, which are the table bytes if every character is in the table (43 R116). -/
def Obligations.RenderStringSendsTheWholeString : Prop :=
  ∀ (s : State) (p c : Byte) (a : Addr) (n : Nat) (rest : List Byte),
    s.caughtUp → s.seq = .idle → s.ready = true → s.cfg.wf = true →
    decode .request (s.stream.drop s.rip) = .ok (.renderString p c a, rest) → stringOfLength s.text a n →
    (s.cfg.checkedMode = false
      ∨ p.toNat < s.cfg.pages ∧ c.toNat < s.cfg.columns ∧ c.toNat + s.cfg.glyphWidth * n ≤ s.cfg.columns
        ∧ stringInTable s.cfg s.text a n) →
    ∃ (k : Nat) (t : State) (bytes : List Byte), Sys2Proof.core.run k s = .next t
      ∧ t.caughtUp ∧ t.seq = .idle ∧ t.resp = 0x00 ∧ t.responses = s.responses ++ [0x00] ∧ t.rip = s.rip + 5
      ∧ t.fault = s.fault ∧ t.ready = true
      ∧ t.trace = s.trace ++ cursorEvents p c ++ bytes.flatMap wdEvents
      ∧ bytes.length = s.cfg.glyphWidth * n
      ∧ (stringInTable s.cfg s.text a n → bytes = stringGlyphBytes s.cfg s.text a n)

/-- RENDER_STRING in the checked mode that fails a check: OutOfRangeAddress if the address check fails, else
UnsupportedGlyph, with no event (derived from 43 R115, 60 R164). -/
def Obligations.RenderStringRefusedEmitsNothing : Prop :=
  ∀ (s : State) (p c : Byte) (a : Addr) (n : Nat) (rest : List Byte),
    s.caughtUp → s.seq = .idle → s.ready = true → s.cfg.checkedMode = true →
    decode .request (s.stream.drop s.rip) = .ok (.renderString p c a, rest) → stringOfLength s.text a n →
    (s.cfg.pages ≤ p.toNat ∨ s.cfg.columns ≤ c.toNat ∨ s.cfg.columns < c.toNat + s.cfg.glyphWidth * n
      ∨ ¬ stringInTable s.cfg s.text a n) →
    ∃ (k : Nat) (t : State), Sys2Proof.core.run k s = .next t
      ∧ t.seq = .idle ∧ t.rip = s.rip + 5 ∧ t.trace = s.trace ∧ t.lines = s.lines ∧ t.fault = s.fault
      ∧ t.resp = (if s.cfg.pages ≤ p.toNat ∨ s.cfg.columns ≤ c.toNat
          ∨ s.cfg.columns < c.toNat + s.cfg.glyphWidth * n then 0x04 else 0x05)

/-- With no 0x00 byte in TEXT memory a RENDER_STRING in progress never completes: every number of steps leaves it in
progress (derived from 43 R114, 70 R190). -/
def Obligations.UnterminatedStringNeverEnds : Prop :=
  ∀ s : State, s.isBusy = true → (∀ a : Addr, s.text.read a ≠ 0x00) →
    ∀ k : Nat, ∃ t : State, Sys2Proof.core.run k s = .next t ∧ t.isBusy = true

/-! ## LCD commands and the data byte -/

/-- The configuration commands record their byte in their CFG field, and change nothing else (derived from 44
R130 to R132, R136 to R139, R142, R143, R157). -/
def Obligations.ConfigurationCommandsRecordTheirByte : Prop :=
  ∀ s : State, s.lcd.valid = true →
    exec .adcSelect s = .next { s with lcd := { s.lcd with regs := { s.lcd.regs with adc := some 0xA0 } } }
    ∧ exec .displayOff s = .next { s with lcd := { s.lcd with regs := { s.lcd.regs with display := some 0xAE } } }
    ∧ exec .comDirSelect s = .next { s with lcd := { s.lcd with regs := { s.lcd.regs with comDir := some 0xC8 } } }
    ∧ exec .biasSelect s = .next { s with lcd := { s.lcd with regs := { s.lcd.regs with bias := some 0xA3 } } }
    ∧ exec .powerCtrl s = .next { s with lcd := { s.lcd with regs := { s.lcd.regs with power := some 0x2F } } }
    ∧ exec .resRatio s = .next { s with lcd := { s.lcd with regs := { s.lcd.regs with ratio := some 0x26 } } }
    ∧ exec .displayOn s = .next { s with lcd := { s.lcd with regs := { s.lcd.regs with display := some 0xAF } } }
    ∧ exec .allPointsNormal s
      = .next { s with lcd := { s.lcd with regs := { s.lcd.regs with allPoints := some 0xA4 } } }
    ∧ exec .initOrigin40 s
      = .next { s with lcd := { s.lcd with regs := { s.lcd.regs with startLine := some 0x40 } } }

/-- The address commands set their latch, each leaving the other two and all else alone (derived from 44 R133 to
R135). -/
def Obligations.AddressCommandsSetTheirLatch : Prop :=
  ∀ (s : State) (v : Nibble), s.lcd.valid = true →
    exec (.pageAddr v) s = .next { s with lcd := { s.lcd with page := some v } }
    ∧ exec (.colAddrHi v) s = .next { s with lcd := { s.lcd with colHi := some v } }
    ∧ exec (.colAddrLo v) s = .next { s with lcd := { s.lcd with colLo := some v } }

/-- The two bytes of the volume command: the mode byte sets VOL_PENDING, and the level byte is taken whole as VOLUME
and touches no latch, whatever its value (derived from 44 R140, R141, 30 R74). -/
def Obligations.VolumePairSetsTheLevel : Prop :=
  ∀ (s : State) (v : Byte), s.lcd.valid = true →
    exec .volumeMode s = .next { s with lcd := { s.lcd with volPending := true } }
    ∧ exec (.volumeLevel v) s
      = .next { s with lcd := { s.lcd with regs := { s.lcd.regs with volume := some v }, volPending := false } }

/-- With VALID false no command and no data byte changes anything (derived from 44 R155). -/
def Obligations.NothingIsReadBeforeAReset : Prop :=
  ∀ (s : State) (i : Instr), s.lcd.valid = false → i.wellFormed .request = false → exec i s = .next s

/-- A data byte at a known cell of the surface writes that cell and no other, and advances the column, which is
unknown once it would leave the surface (44 R151). -/
def Obligations.DataByteWritesItsCell : Prop :=
  ∀ (s : State) (b : Byte) (p : Nibble) (h l : Nibble), s.lcd.valid = true → s.lcd.volPending = false →
    s.lcd.page = some p → s.lcd.colHi = some h → s.lcd.colLo = some l →
    p.toNat < s.cfg.pages → (h ++ l).toNat < s.cfg.columns → s.cfg.columns ≤ 256 →
    ∃ t, exec (.data b) s = .next t
      ∧ t.lcd.cell p.toNat (h ++ l).toNat = some b
      ∧ (∀ p' c', c' < 256 → (p', c') ≠ (p.toNat, (h ++ l).toNat) → t.lcd.cell p' c' = s.lcd.cell p' c')
      ∧ t.lcd.column = (if (h ++ l).toNat + 1 < s.cfg.columns then some ((h ++ l).toNat + 1) else none)
      ∧ (s.cfg.columns ≤ (h ++ l).toNat + 1 → t.lcd.colHi = none ∧ t.lcd.colLo = none)
      ∧ t = { s with lcd := { s.lcd with vram := t.lcd.vram, colHi := t.lcd.colHi, colLo := t.lcd.colLo } }

/-- A data byte at an unknown column of a page of the surface makes that page unknown when off-surface writes are
isolated, and the whole surface otherwise; the column stays unknown (derived from
44 R152). -/
def Obligations.DataByteAtUnknownColumn : Prop :=
  ∀ (s : State) (b : Byte) (p : Nibble), s.lcd.valid = true → s.lcd.volPending = false → s.lcd.page = some p →
    p.toNat < s.cfg.pages → s.lcd.column = none →
    ∃ t, exec (.data b) s = .next t ∧ t.lcd.column = none
      ∧ (∀ p' c', c' < 256 → t.lcd.cell p' c' =
          (if s.cfg.offSurfaceIsolated = true ∧ p' ≠ p.toNat then s.lcd.cell p' c' else none))
      ∧ t = { s with lcd := { s.lcd with vram := t.lcd.vram, colHi := t.lcd.colHi, colLo := t.lcd.colLo } }

/-- A data byte off the surface, the page known, changes no cell when off-surface writes are isolated and makes every
cell unknown otherwise; with the page unknown every cell becomes unknown. The column advances or is unknown (derived
from 44 R153; where both of its sentences apply the model makes every cell unknown, log entry 16). -/
def Obligations.DataByteOffTheSurface : Prop :=
  ∀ (s : State) (b : Byte), s.lcd.valid = true → s.lcd.volPending = false → s.cfg.columns ≤ 256 →
    (s.lcd.page = none ∨ ∃ p : Nibble, s.lcd.page = some p
      ∧ (s.cfg.pages ≤ p.toNat ∨ ∃ c, s.lcd.column = some c ∧ s.cfg.columns ≤ c)) →
    ∃ t, exec (.data b) s = .next t
      ∧ (∀ p' c', t.lcd.cell p' c' =
          (if s.cfg.offSurfaceIsolated = true ∧ s.lcd.page ≠ none then s.lcd.cell p' c' else none))
      ∧ t.lcd.column = (s.lcd.column.bind fun c => if c + 1 < s.cfg.columns then some (c + 1) else none)
      ∧ t = { s with lcd := { s.lcd with vram := t.lcd.vram, colHi := t.lcd.colHi, colLo := t.lcd.colLo } }

/-- The observer becomes lost on a data byte inside the volume pair, and on a command byte that no rule gives a
meaning (derived from 44 R156). The rule gives VALID <- false; that a lost observer keeps its other fields is the
model's choice (log entry 17). -/
def Obligations.ObserverBecomesLost : Prop :=
  ∀ (s : State) (b : Byte), s.lcd.valid = true →
    (s.lcd.volPending = true → exec (.data b) s = .next { s with lcd := { s.lcd with valid := false } })
    ∧ (s.trace[s.seen]? = some (.xfer b) → s.lcd.cs = some .on → s.lcd.pulse = .released →
        s.lcd.dc = some .cmd → s.lcd.volPending = false →
        (b &&& 0xF0 ∉ [0xB0, 0x10, 0x00]
          ∧ b ∉ [0x81, 0xA0, 0xAE, 0xAF, 0xC8, 0xA3, 0x2F, 0x26, 0xA4, 0x40]) →
        step s = .next { s with seen := s.seen + 1, lcd := { s.lcd with valid := false } })

/-- A step that reads an event is the reference reading of it, `Controller.after`, which writes out the ordered cases of
44 R157, the data byte of R151 to R153, the lines of R155 and the reset pulse of R154 apart from the functions the step
uses; nothing else changes (derived from 44 R151 to R157). Where the rules leave a case open, that reading carries the
model's choices: one event a step (log entry 1), a frame spoils a pulse and an undriven DC leaves a byte unread (11),
both nibbles unknown at an unknown column (15), every cell unknown with the page unknown (16), a lost observer keeps
its fields (17), and waits compared by nominal durations (20). -/
def Obligations.ControllerStepIsTheReferenceReading : Prop :=
  ∀ (s : State) (ev : Event), s.trace[s.seen]? = some ev →
    step s = .next { s with seen := s.seen + 1, lcd := s.lcd.after s.cfg ev }

/-- A completed reset pulse, and nothing else, makes the observer VALID (derived from 44 R154). In three steps the
events `rst(ON)`, a long enough wait and `rst(OFF)` do. In general, the observer being that of the events read,
`rst(OFF)` completes the pulse when after the last `rst(ON)` a long enough wait came and no byte of a frame; then VALID
is true, no volume pair is pending and every latch, cell and CFG field is unknown. Otherwise `rst(OFF)` leaves VALID and
all the observer knows as it was. VALID turns true in no other step. Waits are compared by nominal durations (log entry
20); the line fields, and that a byte spoils a pulse and a second `rst(ON)` starts it anew, are the model's (log entry
11). -/
def Obligations.ResetPulseMakesTheObserverValid : Prop :=
  (∀ (s : State) (d : Duration), s.cfg.tReset ≤ nominal s.cfg d →
    s.trace.drop s.seen = [.rst .on, .wait d, .rst .off] →
    ∃ t, Sys2Proof.core.run 3 s = .next t ∧ t.caughtUp
      ∧ t.lcd = { Controller.initial with valid := true, cs := s.lcd.cs, dc := s.lcd.dc })
  ∧ (∀ s : State, s.observerInv → s.trace[s.seen]? = some (.rst .off) →
      (pulseHeld s.cfg (s.trace.take s.seen) →
        step s = .next { s with
          seen := s.seen + 1, lcd := { Controller.initial with valid := true, cs := s.lcd.cs, dc := s.lcd.dc } })
      ∧ (¬ pulseHeld s.cfg (s.trace.take s.seen) →
        step s = .next { s with seen := s.seen + 1, lcd := { s.lcd with pulse := .released } }))
  ∧ (∀ s t : State, s.observerInv → step s = .next t → s.lcd.valid = false → t.lcd.valid = true →
      s.trace[s.seen]? = some (.rst .off) ∧ pulseHeld s.cfg (s.trace.take s.seen))

/-! ## The surface after whole requests -/

/-- After the events of INIT_DISPLAY, whatever came before, the observer holds every configuration byte, the cursor is
page 0 with the column latch at 5, and the five 0xFF bytes stand in columns 0 to 4 of page 0 (42 R98). -/
def Obligations.InitDisplayOnTheSurface : Prop :=
  ∀ (c : Config) (o : Controller), c.wf = true → 6 ≤ c.columns →
    o.afterAll c displaySetup =
      { valid := true, page := some 0, colHi := some 0, colLo := some 5
        vram := [(0, 0xFF), (1, 0xFF), (2, 0xFF), (3, 0xFF), (4, 0xFF)]
        regs := {
          adc := some 0xA0, display := some 0xAF, comDir := some 0xC8, bias := some 0xA3, power := some 0x2F
          ratio := some 0x26, volume := some 0x07, allPoints := some 0xA4, startLine := some 0x40 }
        volPending := false, cs := some .off, dc := some .data, pulse := .released }

/-- The data bytes of a run of writes that stays on the surface land in consecutive columns of the page, left to
right, and change no other cell (derived from 20 R47, 44 R151). -/
def Obligations.DataRunLandsInConsecutiveColumns : Prop :=
  ∀ (c : Config) (o : Controller) (p : Nibble) (col : Nat) (bytes : List Byte),
    o.valid = true → o.volPending = false → o.pulse = .released → o.page = some p → o.column = some col →
    p.toNat < c.pages → col + bytes.length ≤ c.columns → c.columns ≤ 256 →
    (o.afterAll c (bytes.flatMap wdEvents)).page = some p
      ∧ (∀ k b, bytes[k]? = some b → (o.afterAll c (bytes.flatMap wdEvents)).cell p.toNat (col + k) = some b)
      ∧ (∀ p' c', c' < 256 → ¬ (p' = p.toNat ∧ col ≤ c' ∧ c' < col + bytes.length) →
          (o.afterAll c (bytes.flatMap wdEvents)).cell p' c' = o.cell p' c')
      ∧ (col + bytes.length < c.columns →
          (o.afterAll c (bytes.flatMap wdEvents)).column = some (col + bytes.length))

/-- After the events of CLEAR_SURFACE the page latch is PAGES and the column is unknown; every cell of the surface is
0x00 when off-surface writes are isolated, and unknown otherwise (derived from 43 R117, 44 R151 to R153, 70 R186). -/
def Obligations.ClearSurfaceOnTheSurface : Prop :=
  ∀ (c : Config) (o : Controller), c.wf = true → o.valid = true → o.volPending = false → o.pulse = .released →
    (o.afterAll c (surfaceSweep c)).page = some (BitVec.ofNat 4 c.pages)
      ∧ (o.afterAll c (surfaceSweep c)).column = none
      ∧ (∀ p col, p < c.pages → col < c.columns →
          (o.afterAll c (surfaceSweep c)).cell p col = if c.offSurfaceIsolated then some 0x00 else none)

/-! ## Memory -/

/-- A TEXT byte reads back as written, every other byte as before, and a write keeps the canonical form (derived from
20 R42). -/
def Obligations.TextReadsBackAsWritten : Prop :=
  ∀ (m : Memory) (a a' : Addr) (b : Byte), m.wf = true →
    (m.write a b).wf = true ∧ (m.write a b).read a' = if a' = a then b else m.read a'

/-- The Host changes TEXT memory only while SEQ = IDLE, and then the byte it wrote is what a read gives, every other
TEXT byte reads as before, and nothing but TEXT memory changes (derived from 20 R42, R56). -/
def Obligations.HostWritesTextOnlyWhenIdle : Prop :=
  ∀ (s : State) (a : Addr) (b : Byte), s.text.wf = true →
    (s.seq ≠ .idle → s.hostWriteText a b = none)
    ∧ (s.seq = .idle → ∃ t, s.hostWriteText a b = some t ∧ t.text.read a = b
        ∧ (∀ a' : Addr, a' ≠ a → t.text.read a' = s.text.read a') ∧ t = { s with text := t.text })

/-! ## The whole machine -/

/-- Every instruction answers a next state in every state, and none changes the request stream, TEXT memory, the
glyph table or any other parameter (derived from 20 R40 to R42, 10 R34, 60 R166). -/
def Obligations.EveryInstructionCompletesAndKeepsItsInputs : Prop :=
  ∀ (i : Instr) (s : State),
    ∃ t, exec i s = .next t ∧ t.cfg = s.cfg ∧ t.stream = s.stream ∧ t.text = s.text

/-- The block reads nothing from the observer: with every event read, replacing the observer changes nothing of the
step but the observer (derived from 44 R159). -/
def Obligations.BlockReadsNothingFromTheObserver : Prop :=
  ∀ (s : State) (o : Controller), s.trace.length ≤ s.seen →
    (∀ t, step s = .next t → step { s with lcd := o } = .next { t with lcd := o } ∧ t.lcd = s.lcd)
    ∧ (∀ r, step s = .fault r → step { s with lcd := o } = .fault r)
    ∧ (∀ r, step s = .refused r → step { s with lcd := o } = .refused r)

/-- READY is set only by INIT_BUS: a step that turns it on ran INIT_BUS, and no step turns it off (derived
from 10 R23). -/
def Obligations.OnlyInitBusSetsReady : Prop :=
  ∀ s t : State, step s = .next t →
    (s.ready = true → t.ready = true)
    ∧ (s.ready = false → t.ready = true → ∃ rest, decode .request (s.stream.drop s.rip) = .ok (.initBus, rest)
        ∧ step s = exec .initBus s)

/-- The trace only grows, the responses only grow and RIP never goes back (derived from 10 R20, R21). -/
def Obligations.TraceAndRipOnlyGrow : Prop :=
  ∀ s t : State, step s = .next t →
    (∃ evs, t.trace = s.trace ++ evs) ∧ (∃ rs, t.responses = s.responses ++ rs) ∧ s.rip ≤ t.rip

/-- Every step keeps the observer the function of the events read (derived from 44 R155, R159). That function is
`Controller.after`, with the model's choices of log entries 1, 11, 15, 16, 17 and 20. -/
def Obligations.StepKeepsObserverAFunctionOfTheTrace : Prop :=
  ∀ s t : State, s.observerInv → step s = .next t → t.observerInv

/-- Every step keeps the lines at what the trace last drove (10 R28). -/
def Obligations.StepKeepsLinesAFunctionOfTheTrace : Prop :=
  ∀ s t : State, s.linesInv → step s = .next t → t.linesInv

/-- Every step leaves no frame open and no reset pulse in progress (derived from 41 R81, 42 R95). -/
def Obligations.StepKeepsLinesAtRest : Prop :=
  ∀ s t : State, s.linesAtRest → step s = .next t → t.linesAtRest

/-- Every step keeps HALTED and FAULT together and FAULT and RESP legal (derived from 10 R24, R25, R31,
R32). -/
def Obligations.StepKeepsStatusLegal : Prop :=
  ∀ s t : State, s.statusInv → step s = .next t → t.statusInv

/-- Every step keeps READY with configured lines, and a block that is not READY silent (derived from 10 R23,
60 R161). -/
def Obligations.StepKeepsReadyWithConfiguredLines : Prop :=
  ∀ s t : State, s.readyInv → step s = .next t → t.readyInv

/-- Every step keeps the trace well framed: each command byte is followed, after cs(OFF), by its settle wait (42
R92). -/
def Obligations.StepKeepsTheTraceFramed : Prop :=
  ∀ s t : State, wellFramed s.trace = true → step s = .next t → wellFramed t.trace = true

/-- Every step keeps RIP within the stream (derived from 10 R21, 30 R62). -/
def Obligations.StepKeepsRipInTheStream : Prop :=
  ∀ s t : State, s.ripInv → step s = .next t → t.ripInv

/-- Every step keeps TEXT memory and the known cells canonical (derived from 20 R42, 44 R150; the form is the
model's). -/
def Obligations.StepKeepsMemoryCanonical : Prop :=
  ∀ s t : State, s.memoryInv → step s = .next t → t.memoryInv

/-- The reset state meets every invariant, and its parameters are within their bounds (derived from 70 R180, 00
R5). -/
def Obligations.ResetMeetsTheInvariants : Prop :=
  State.reset.observerInv ∧ State.reset.linesInv ∧ State.reset.linesAtRest ∧ State.reset.statusInv
    ∧ State.reset.readyInv ∧ wellFramed State.reset.trace = true ∧ State.reset.ripInv ∧ State.reset.memoryInv
    ∧ State.reset.cfg.wf = true
end

