-- ==== Sys2Proof/Laws/Cells.lean ====
section
/-! SUPPORT. The sorted cell lists behind TEXT memory and VRAM: what a lookup gives after a change, and that every
operation keeps the canonical form. -/

namespace Sys2Proof.Machine

@[simp] theorem cellFind_nil (a : Nat) : cellFind [] a = none := rfl

theorem cellFind_cellPut (m : List Host.Cell) (a b : Nat) (v : Byte) :
    cellFind (cellPut m a v) b = if b = a then some v else cellFind m b := by
  induction m with
  | nil => simp [cellPut, cellFind]
  | cons c rest ih =>
    obtain ⟨k, w⟩ := c
    unfold cellPut
    split_ifs <;> simp only [cellFind] <;> split_ifs <;> simp_all

theorem cellFind_filter (m : List Host.Cell) (p : Nat → Bool) (b : Nat) :
    cellFind (m.filter fun c => p c.1) b = if p b then cellFind m b else none := by
  induction m with
  | nil => simp
  | cons c rest ih =>
    obtain ⟨k, w⟩ := c
    by_cases hk : p k <;> by_cases hb : b = k <;> simp_all [cellFind]

theorem cellFind_cellErase (m : List Host.Cell) (a b : Nat) :
    cellFind (cellErase m a) b = if b = a then none else cellFind m b := by
  have h := cellFind_filter m (fun k => k != a) b
  by_cases hb : b = a <;> simp_all [cellErase]

theorem mem_cellPut {m : List Host.Cell} {a : Nat} {v : Byte} {x : Host.Cell} (h : x ∈ cellPut m a v) :
    x = (a, v) ∨ x ∈ m := by
  induction m with
  | nil => simpa [cellPut] using h
  | cons c rest ih =>
    obtain ⟨k, w⟩ := c
    unfold cellPut at h
    split_ifs at h <;> simp only [List.mem_cons] at h ⊢ <;> tauto

theorem cellPut_rising {m : List Host.Cell} (h : cellsRising m) (a : Nat) (v : Byte) :
    cellsRising (cellPut m a v) := by
  induction m with
  | nil => simp [cellPut]
  | cons c rest ih =>
    obtain ⟨k, w⟩ := c
    simp only [List.pairwise_cons] at h
    unfold cellPut
    split_ifs with h1 h2
    · refine List.pairwise_cons.2 ⟨fun y hy => ?_, List.pairwise_cons.2 h⟩
      rcases List.mem_cons.1 hy with rfl | hy
      · exact h1
      · exact lt_trans h1 (h.1 y hy)
    · subst h2
      exact List.pairwise_cons.2 ⟨fun y hy => h.1 y hy, h.2⟩
    · refine List.pairwise_cons.2 ⟨fun y hy => ?_, ih h.2⟩
      rcases mem_cellPut hy with rfl | hy
      · exact lt_of_le_of_ne (not_lt.1 h1) (Ne.symm h2)
      · exact h.1 y hy

theorem cellFilter_rising {m : List Host.Cell} (h : cellsRising m) (p : Host.Cell → Bool) :
    cellsRising (m.filter p) :=
  h.filter _

theorem Memory.read_write (m : Memory) (a a' : Addr) (b : Byte) :
    (m.write a b).read a' = if a' = a then b else m.read a' := by
  by_cases h : a' = a
  · subst h
    by_cases hb : b = Memory.unlisted <;>
      simp [Memory.write, Memory.read, cellFind_cellErase, cellFind_cellPut, hb]
  · have hn : a'.toNat ≠ a.toNat := fun e => h (BitVec.eq_of_toNat_eq e)
    by_cases hb : b = Memory.unlisted <;>
      simp [Memory.write, Memory.read, cellFind_cellErase, cellFind_cellPut, hb, hn, h]

/-- Every write keeps the canonical form of TEXT memory. -/
theorem Memory.write_wf {m : Memory} (h : m.wf = true) (a : Addr) (b : Byte) : (m.write a b).wf = true := by
  simp only [Memory.wf, Bool.and_eq_true, decide_eq_true_eq, List.all_eq_true, bne_iff_ne] at h ⊢
  obtain ⟨hr, ha⟩ := h
  unfold Memory.write
  split_ifs with hb
  · exact ⟨cellFilter_rising hr _, fun x hx => ha x (List.mem_filter.1 hx).1⟩
  · refine ⟨cellPut_rising hr _ _, fun x hx => ?_⟩
    rcases mem_cellPut hx with rfl | hx
    · exact ⟨a.isLt, hb⟩
    · exact ha x hx

/-- TEXT memory of the reset state is canonical. -/
theorem Memory.wf_nil : Memory.wf [] = true := rfl

end Sys2Proof.Machine
end

