-- ==== Sys2Proof/Laws/Events.lean ====
section
/-! SUPPORT. The event lists of the requests: what they are in the terms of the claims, what they leave on the lines,
and that they are well framed. -/

namespace Sys2Proof.Machine

theorem commandWrite_eq (b : Byte) : commandWrite b = wcEvents b := rfl

theorem dataWrite_eq (b : Byte) : dataWrite b = wdEvents b := rfl

theorem cursorWrite_eq (p c : Byte) : cursorWrite p c = cursorEvents p c := by
  simp [cursorWrite, cursorEvents, commandWrite_eq, pageCommand, colHiCommand, colLoCommand]

@[simp] theorem drive_wcEvents (l : Lines) (b : Byte) :
    (wcEvents b).foldl Lines.drive l = { l with dc := some .cmd, cs := some .off } := rfl

@[simp] theorem drive_wdEvents (l : Lines) (b : Byte) :
    (wdEvents b).foldl Lines.drive l = { l with dc := some .data, cs := some .off } := rfl

@[simp] theorem drive_cursorEvents (l : Lines) (p c : Byte) :
    (cursorEvents p c).foldl Lines.drive l = { l with dc := some .cmd, cs := some .off } := rfl

/-- A run of data bytes leaves DC = DATA and CS = OFF, unless it is empty. -/
theorem drive_dataRun (l : Lines) (bytes : List Byte) :
    (bytes.flatMap wdEvents).foldl Lines.drive l =
      if bytes = [] then l else { l with dc := some .data, cs := some .off } := by
  induction bytes generalizing l with
  | nil => rfl
  | cons b rest ih =>
    rw [List.flatMap_cons, List.foldl_append, drive_wdEvents, ih]
    split_ifs <;> simp_all

@[simp] theorem wellFramed_wcEvents (b : Byte) (rest : List Event) :
    wellFramed (wcEvents b ++ rest) = wellFramed rest := rfl

@[simp] theorem wellFramed_wdEvents (b : Byte) (rest : List Event) :
    wellFramed (wdEvents b ++ rest) = wellFramed rest := rfl

/-- Well-framed traces join. -/
theorem wellFramed_append : ∀ {xs : List Event}, wellFramed xs = true → ∀ {ys : List Event},
    wellFramed ys = true → wellFramed (xs ++ ys) = true := by
  intro xs
  induction xs using wellFramed.induct with
  | case1 => intro _ ys hy; exact hy
  | case2 b rest ih => intro hx ys hy; exact ih hx hy
  | case3 b rest ih => intro hx ys hy; exact ih hx hy
  | case4 rest ih => intro hx ys hy; exact ih hx hy
  | case5 m rest ih => intro hx ys hy; exact ih hx hy
  | case6 rest ih => intro hx ys hy; exact ih hx hy
  | case7 x rest ih => intro hx ys hy; exact ih hx hy
  | case8 t rest ih => intro hx ys hy; simp only [List.cons_append, wellFramed] at hx ⊢; exact ih hx hy
  | case9 => intro hx; simp_all [wellFramed]

theorem wellFramed_flatMap {α : Type} (f : α → List Event) (h : ∀ a, wellFramed (f a) = true) (xs : List α) :
    wellFramed (xs.flatMap f) = true := by
  induction xs with
  | nil => rfl
  | cons x rest ih => exact wellFramed_append (h x) ih

theorem wellFramed_dataRun (bytes : List Byte) : wellFramed (bytes.flatMap wdEvents) = true :=
  wellFramed_flatMap _ (fun _ => rfl) _

theorem glyphWrite_eq (c : Config) (d : Nat) (a : Byte) :
    glyphWrite c d a = (glyphBytes c d (glyphIndex a)).flatMap wdEvents := rfl

@[simp] theorem glyphBytes_length (c : Config) (d i : Nat) : (glyphBytes c d i).length = c.glyphWidth := by
  simp [glyphBytes]

/-- In a well-formed configuration the reads of an in-table glyph are its table bytes. -/
theorem glyphBytes_inTable {c : Config} (h : c.wf = true) (d i : Nat) {glyph : List Byte}
    (hg : c.glyphRom[i]? = some glyph) : glyphBytes c d i = glyph := by
  simp only [Config.wf, Bool.and_eq_true, decide_eq_true_eq, List.all_eq_true] at h
  obtain ⟨⟨_, hlen⟩, hw⟩ := h
  obtain ⟨hi, hgi⟩ := List.getElem?_eq_some_iff.1 hg
  have hgl : glyph.length = c.glyphWidth := hw glyph (hgi ▸ List.getElem_mem hi)
  apply List.ext_getElem?
  intro k
  have hic : i < c.glyphCount := hlen ▸ hi
  simp only [glyphBytes, List.getElem?_map, glyphByte, hg, Option.getD_some, if_pos hic]
  by_cases hk : k < c.glyphWidth
  · simp [List.getElem?_range hk, List.getElem?_eq_getElem (hgl ▸ hk : k < glyph.length)]
  · rw [List.getElem?_eq_none (by simpa using hk), List.getElem?_eq_none (by omega)]; rfl

/-- The sweep of one page in the terms of the claims. -/
theorem pageSweep_eq (c : Config) {p : Nat} (hp : p ≤ 15) :
    pageSweep c p = wcEvents (0xB0 ||| BitVec.ofNat 8 p) ++ wcEvents 0x10 ++ wcEvents 0x00
      ++ (List.replicate c.columns 0x00).flatMap wdEvents := by
  have h : pageCommand (BitVec.ofNat 8 p) = 0xB0 ||| BitVec.ofNat 8 p := by
    interval_cases p <;> rfl
  simp only [pageSweep, cursorWrite, h, commandWrite_eq, colHiCommand, colLoCommand, clearByte]
  rfl

/-- A run of command bytes leaves DC = CMD and CS = OFF, unless it is empty. -/
theorem drive_commandRun (l : Lines) (bytes : List Byte) :
    (bytes.flatMap wcEvents).foldl Lines.drive l =
      if bytes = [] then l else { l with dc := some .cmd, cs := some .off } := by
  induction bytes generalizing l with
  | nil => rfl
  | cons b rest ih =>
    rw [List.flatMap_cons, List.foldl_append, drive_wcEvents, ih]
    split_ifs <;> simp_all

/-- The initialisation sequence leaves DC = DATA, CS = OFF and RST = OFF. -/
theorem drive_displaySetup (l : Lines) :
    displaySetup.foldl Lines.drive l = { l with dc := some .data, cs := some .off, rst := some .off } := by
  rw [displaySetup, List.foldl_append, List.foldl_append, show dataWrite = wdEvents from rfl, drive_dataRun,
    if_neg (by decide), show commandWrite = wcEvents from rfl, drive_commandRun,
    if_neg (by decide)]
  rfl

/-- The whole sweep in the terms of the claims. -/
theorem surfaceSweep_eq {c : Config} (h : c.pages ≤ 15) : surfaceSweep c = (List.range (c.pages + 1)).flatMap fun p =>
    wcEvents (0xB0 ||| BitVec.ofNat 8 p) ++ wcEvents 0x10 ++ wcEvents 0x00
      ++ (List.replicate c.columns 0x00).flatMap wdEvents :=
  List.flatMap_congr fun p hp => pageSweep_eq c (by have := List.mem_range.1 hp; omega)

/-- The sweep leaves DC = DATA and CS = OFF. -/
theorem drive_surfaceSweep {c : Config} (h : 1 ≤ c.columns) (l : Lines) :
    (surfaceSweep c).foldl Lines.drive l = { l with dc := some .data, cs := some .off } := by
  have hp : ∀ (l : Lines) (p : Nat),
      (pageSweep c p).foldl Lines.drive l = { l with dc := some .data, cs := some .off } := by
    intro l p
    have hn : List.replicate c.columns clearByte ≠ [] := by simp; omega
    rw [pageSweep, List.foldl_append, show dataWrite = wdEvents from rfl, drive_dataRun, if_neg hn, cursorWrite_eq,
      drive_cursorEvents]
  unfold surfaceSweep
  induction c.pages with
  | zero => rw [List.range_one, List.flatMap_singleton, hp]
  | succ n ih => rw [List.range_succ, List.flatMap_append, List.foldl_append, ih, List.flatMap_singleton, hp]

theorem wellFramed_pageSweep (c : Config) (p : Nat) : wellFramed (pageSweep c p) = true :=
  wellFramed_append (by rfl) (wellFramed_dataRun _)

theorem wellFramed_surfaceSweep (c : Config) : wellFramed (surfaceSweep c) = true :=
  wellFramed_flatMap _ (wellFramed_pageSweep c) _

end Sys2Proof.Machine
end

