-- ==== Sys2Proof/Laws/State.lean ====
section
/-! SUPPORT. One lemma per field per named update of the state, so that no proof unfolds a record update. -/

namespace Sys2Proof.Machine

variable (s : State)

/-! emitting drives the lines and lengthens the trace -/

@[simp] theorem State.emit_cfg (evs : List Event) : (s.emit evs).cfg = s.cfg := rfl
@[simp] theorem State.emit_stream (evs : List Event) : (s.emit evs).stream = s.stream := rfl
@[simp] theorem State.emit_text (evs : List Event) : (s.emit evs).text = s.text := rfl
@[simp] theorem State.emit_rip (evs : List Event) : (s.emit evs).rip = s.rip := rfl
@[simp] theorem State.emit_seq (evs : List Event) : (s.emit evs).seq = s.seq := rfl
@[simp] theorem State.emit_ready (evs : List Event) : (s.emit evs).ready = s.ready := rfl
@[simp] theorem State.emit_fault (evs : List Event) : (s.emit evs).fault = s.fault := rfl
@[simp] theorem State.emit_resp (evs : List Event) : (s.emit evs).resp = s.resp := rfl
@[simp] theorem State.emit_opPage (evs : List Event) : (s.emit evs).opPage = s.opPage := rfl
@[simp] theorem State.emit_opCol (evs : List Event) : (s.emit evs).opCol = s.opCol := rfl
@[simp] theorem State.emit_opChar (evs : List Event) : (s.emit evs).opChar = s.opChar := rfl
@[simp] theorem State.emit_opByte (evs : List Event) : (s.emit evs).opByte = s.opByte := rfl
@[simp] theorem State.emit_opAddr (evs : List Event) : (s.emit evs).opAddr = s.opAddr := rfl
@[simp] theorem State.emit_cntPage (evs : List Event) : (s.emit evs).cntPage = s.cntPage := rfl
@[simp] theorem State.emit_cntCol (evs : List Event) : (s.emit evs).cntCol = s.cntCol := rfl
@[simp] theorem State.emit_cntGlyph (evs : List Event) : (s.emit evs).cntGlyph = s.cntGlyph := rfl
@[simp] theorem State.emit_textPtr (evs : List Event) : (s.emit evs).textPtr = s.textPtr := rfl
@[simp] theorem State.emit_initIdx (evs : List Event) : (s.emit evs).initIdx = s.initIdx := rfl
@[simp] theorem State.emit_lines (evs : List Event) : (s.emit evs).lines = evs.foldl Lines.drive s.lines := rfl
@[simp] theorem State.emit_spiStatus (evs : List Event) : (s.emit evs).spiStatus = s.spiStatus := rfl
@[simp] theorem State.emit_trace (evs : List Event) : (s.emit evs).trace = s.trace ++ evs := rfl
@[simp] theorem State.emit_responses (evs : List Event) : (s.emit evs).responses = s.responses := rfl
@[simp] theorem State.emit_draws (evs : List Event) : (s.emit evs).draws = s.draws := rfl
@[simp] theorem State.emit_seen (evs : List Event) : (s.emit evs).seen = s.seen := rfl
@[simp] theorem State.emit_lcd (evs : List Event) : (s.emit evs).lcd = s.lcd := rfl

/-! ending a request -/

@[simp] theorem State.respond_cfg (code : Byte) (len : Nat) : (s.respond code len).cfg = s.cfg := rfl
@[simp] theorem State.respond_stream (code : Byte) (len : Nat) : (s.respond code len).stream = s.stream := rfl
@[simp] theorem State.respond_text (code : Byte) (len : Nat) : (s.respond code len).text = s.text := rfl
@[simp] theorem State.respond_rip (code : Byte) (len : Nat) : (s.respond code len).rip = s.rip + len := rfl
@[simp] theorem State.respond_seq (code : Byte) (len : Nat) : (s.respond code len).seq = .idle := rfl
@[simp] theorem State.respond_ready (code : Byte) (len : Nat) : (s.respond code len).ready = s.ready := rfl
@[simp] theorem State.respond_fault (code : Byte) (len : Nat) : (s.respond code len).fault = s.fault := rfl
@[simp] theorem State.respond_resp (code : Byte) (len : Nat) : (s.respond code len).resp = code := rfl
@[simp] theorem State.respond_opPage (code : Byte) (len : Nat) : (s.respond code len).opPage = s.opPage := rfl
@[simp] theorem State.respond_opCol (code : Byte) (len : Nat) : (s.respond code len).opCol = s.opCol := rfl
@[simp] theorem State.respond_opChar (code : Byte) (len : Nat) : (s.respond code len).opChar = s.opChar := rfl
@[simp] theorem State.respond_opByte (code : Byte) (len : Nat) : (s.respond code len).opByte = s.opByte := rfl
@[simp] theorem State.respond_opAddr (code : Byte) (len : Nat) : (s.respond code len).opAddr = s.opAddr := rfl
@[simp] theorem State.respond_cntPage (code : Byte) (len : Nat) : (s.respond code len).cntPage = s.cntPage := rfl
@[simp] theorem State.respond_cntCol (code : Byte) (len : Nat) : (s.respond code len).cntCol = s.cntCol := rfl
@[simp] theorem State.respond_cntGlyph (code : Byte) (len : Nat) : (s.respond code len).cntGlyph = s.cntGlyph := rfl
@[simp] theorem State.respond_textPtr (code : Byte) (len : Nat) : (s.respond code len).textPtr = s.textPtr := rfl
@[simp] theorem State.respond_initIdx (code : Byte) (len : Nat) : (s.respond code len).initIdx = s.initIdx := rfl
@[simp] theorem State.respond_lines (code : Byte) (len : Nat) : (s.respond code len).lines = s.lines := rfl
@[simp] theorem State.respond_spiStatus (code : Byte) (len : Nat) : (s.respond code len).spiStatus = s.spiStatus := rfl
@[simp] theorem State.respond_trace (code : Byte) (len : Nat) : (s.respond code len).trace = s.trace := rfl
@[simp] theorem State.respond_responses (code : Byte) (len : Nat) : (s.respond code len).responses = s.responses ++ [code] := rfl
@[simp] theorem State.respond_draws (code : Byte) (len : Nat) : (s.respond code len).draws = s.draws := rfl
@[simp] theorem State.respond_seen (code : Byte) (len : Nat) : (s.respond code len).seen = s.seen := rfl
@[simp] theorem State.respond_lcd (code : Byte) (len : Nat) : (s.respond code len).lcd = s.lcd := rfl

/-! entering a fatal fault -/

@[simp] theorem State.raiseFault_cfg (code : Byte) : (s.raiseFault code).cfg = s.cfg := rfl
@[simp] theorem State.raiseFault_stream (code : Byte) : (s.raiseFault code).stream = s.stream := rfl
@[simp] theorem State.raiseFault_text (code : Byte) : (s.raiseFault code).text = s.text := rfl
@[simp] theorem State.raiseFault_rip (code : Byte) : (s.raiseFault code).rip = s.rip := rfl
@[simp] theorem State.raiseFault_seq (code : Byte) : (s.raiseFault code).seq = .halted := rfl
@[simp] theorem State.raiseFault_ready (code : Byte) : (s.raiseFault code).ready = s.ready := rfl
@[simp] theorem State.raiseFault_fault (code : Byte) : (s.raiseFault code).fault = code := rfl
@[simp] theorem State.raiseFault_resp (code : Byte) : (s.raiseFault code).resp = s.resp := rfl
@[simp] theorem State.raiseFault_opPage (code : Byte) : (s.raiseFault code).opPage = s.opPage := rfl
@[simp] theorem State.raiseFault_opCol (code : Byte) : (s.raiseFault code).opCol = s.opCol := rfl
@[simp] theorem State.raiseFault_opChar (code : Byte) : (s.raiseFault code).opChar = s.opChar := rfl
@[simp] theorem State.raiseFault_opByte (code : Byte) : (s.raiseFault code).opByte = s.opByte := rfl
@[simp] theorem State.raiseFault_opAddr (code : Byte) : (s.raiseFault code).opAddr = s.opAddr := rfl
@[simp] theorem State.raiseFault_cntPage (code : Byte) : (s.raiseFault code).cntPage = s.cntPage := rfl
@[simp] theorem State.raiseFault_cntCol (code : Byte) : (s.raiseFault code).cntCol = s.cntCol := rfl
@[simp] theorem State.raiseFault_cntGlyph (code : Byte) : (s.raiseFault code).cntGlyph = s.cntGlyph := rfl
@[simp] theorem State.raiseFault_textPtr (code : Byte) : (s.raiseFault code).textPtr = s.textPtr := rfl
@[simp] theorem State.raiseFault_initIdx (code : Byte) : (s.raiseFault code).initIdx = s.initIdx := rfl
@[simp] theorem State.raiseFault_lines (code : Byte) : (s.raiseFault code).lines = s.lines := rfl
@[simp] theorem State.raiseFault_spiStatus (code : Byte) : (s.raiseFault code).spiStatus = s.spiStatus := rfl
@[simp] theorem State.raiseFault_trace (code : Byte) : (s.raiseFault code).trace = s.trace := rfl
@[simp] theorem State.raiseFault_responses (code : Byte) : (s.raiseFault code).responses = s.responses := rfl
@[simp] theorem State.raiseFault_draws (code : Byte) : (s.raiseFault code).draws = s.draws := rfl
@[simp] theorem State.raiseFault_seen (code : Byte) : (s.raiseFault code).seen = s.seen := rfl
@[simp] theorem State.raiseFault_lcd (code : Byte) : (s.raiseFault code).lcd = s.lcd := rfl

/-! block reset -/

@[simp] theorem State.blockReset_cfg : s.blockReset.cfg = s.cfg := rfl
@[simp] theorem State.blockReset_stream : s.blockReset.stream = s.stream := rfl
@[simp] theorem State.blockReset_text : s.blockReset.text = s.text := rfl
@[simp] theorem State.blockReset_rip : s.blockReset.rip = 0 := rfl
@[simp] theorem State.blockReset_seq : s.blockReset.seq = .idle := rfl
@[simp] theorem State.blockReset_ready : s.blockReset.ready = false := rfl
@[simp] theorem State.blockReset_fault : s.blockReset.fault = 0x00 := rfl
@[simp] theorem State.blockReset_resp : s.blockReset.resp = 0x00 := rfl
@[simp] theorem State.blockReset_opPage : s.blockReset.opPage = 0x00 := rfl
@[simp] theorem State.blockReset_opCol : s.blockReset.opCol = 0x00 := rfl
@[simp] theorem State.blockReset_opChar : s.blockReset.opChar = 0x00 := rfl
@[simp] theorem State.blockReset_opByte : s.blockReset.opByte = 0x00 := rfl
@[simp] theorem State.blockReset_opAddr : s.blockReset.opAddr = 0x0000 := rfl
@[simp] theorem State.blockReset_cntPage : s.blockReset.cntPage = 0 := rfl
@[simp] theorem State.blockReset_cntCol : s.blockReset.cntCol = 0 := rfl
@[simp] theorem State.blockReset_cntGlyph : s.blockReset.cntGlyph = 0 := rfl
@[simp] theorem State.blockReset_textPtr : s.blockReset.textPtr = 0x0000 := rfl
@[simp] theorem State.blockReset_initIdx : s.blockReset.initIdx = 0 := rfl
@[simp] theorem State.blockReset_lines : s.blockReset.lines = .reset := rfl
@[simp] theorem State.blockReset_spiStatus : s.blockReset.spiStatus = 0 := rfl
@[simp] theorem State.blockReset_trace : s.blockReset.trace = [] := rfl
@[simp] theorem State.blockReset_responses : s.blockReset.responses = [] := rfl
@[simp] theorem State.blockReset_draws : s.blockReset.draws = s.draws := rfl
@[simp] theorem State.blockReset_seen : s.blockReset.seen = 0 := rfl
@[simp] theorem State.blockReset_lcd : s.blockReset.lcd = .initial := rfl

/-! latching the cursor operands -/

@[simp] theorem State.latchCursor_cfg (p c : Byte) : (s.latchCursor p c).cfg = s.cfg := rfl
@[simp] theorem State.latchCursor_stream (p c : Byte) : (s.latchCursor p c).stream = s.stream := rfl
@[simp] theorem State.latchCursor_text (p c : Byte) : (s.latchCursor p c).text = s.text := rfl
@[simp] theorem State.latchCursor_rip (p c : Byte) : (s.latchCursor p c).rip = s.rip := rfl
@[simp] theorem State.latchCursor_seq (p c : Byte) : (s.latchCursor p c).seq = s.seq := rfl
@[simp] theorem State.latchCursor_ready (p c : Byte) : (s.latchCursor p c).ready = s.ready := rfl
@[simp] theorem State.latchCursor_fault (p c : Byte) : (s.latchCursor p c).fault = s.fault := rfl
@[simp] theorem State.latchCursor_resp (p c : Byte) : (s.latchCursor p c).resp = s.resp := rfl
@[simp] theorem State.latchCursor_opPage (p c : Byte) : (s.latchCursor p c).opPage = p := rfl
@[simp] theorem State.latchCursor_opCol (p c : Byte) : (s.latchCursor p c).opCol = c := rfl
@[simp] theorem State.latchCursor_opChar (p c : Byte) : (s.latchCursor p c).opChar = s.opChar := rfl
@[simp] theorem State.latchCursor_opByte (p c : Byte) : (s.latchCursor p c).opByte = s.opByte := rfl
@[simp] theorem State.latchCursor_opAddr (p c : Byte) : (s.latchCursor p c).opAddr = s.opAddr := rfl
@[simp] theorem State.latchCursor_cntPage (p c : Byte) : (s.latchCursor p c).cntPage = s.cntPage := rfl
@[simp] theorem State.latchCursor_cntCol (p c : Byte) : (s.latchCursor p c).cntCol = s.cntCol := rfl
@[simp] theorem State.latchCursor_cntGlyph (p c : Byte) : (s.latchCursor p c).cntGlyph = s.cntGlyph := rfl
@[simp] theorem State.latchCursor_textPtr (p c : Byte) : (s.latchCursor p c).textPtr = s.textPtr := rfl
@[simp] theorem State.latchCursor_initIdx (p c : Byte) : (s.latchCursor p c).initIdx = s.initIdx := rfl
@[simp] theorem State.latchCursor_lines (p c : Byte) : (s.latchCursor p c).lines = s.lines := rfl
@[simp] theorem State.latchCursor_spiStatus (p c : Byte) : (s.latchCursor p c).spiStatus = s.spiStatus := rfl
@[simp] theorem State.latchCursor_trace (p c : Byte) : (s.latchCursor p c).trace = s.trace := rfl
@[simp] theorem State.latchCursor_responses (p c : Byte) : (s.latchCursor p c).responses = s.responses := rfl
@[simp] theorem State.latchCursor_draws (p c : Byte) : (s.latchCursor p c).draws = s.draws := rfl
@[simp] theorem State.latchCursor_seen (p c : Byte) : (s.latchCursor p c).seen = s.seen := rfl
@[simp] theorem State.latchCursor_lcd (p c : Byte) : (s.latchCursor p c).lcd = s.lcd := rfl

/-! latching the character operand -/

@[simp] theorem State.latchChar_cfg (a : Byte) : (s.latchChar a).cfg = s.cfg := rfl
@[simp] theorem State.latchChar_stream (a : Byte) : (s.latchChar a).stream = s.stream := rfl
@[simp] theorem State.latchChar_text (a : Byte) : (s.latchChar a).text = s.text := rfl
@[simp] theorem State.latchChar_rip (a : Byte) : (s.latchChar a).rip = s.rip := rfl
@[simp] theorem State.latchChar_seq (a : Byte) : (s.latchChar a).seq = s.seq := rfl
@[simp] theorem State.latchChar_ready (a : Byte) : (s.latchChar a).ready = s.ready := rfl
@[simp] theorem State.latchChar_fault (a : Byte) : (s.latchChar a).fault = s.fault := rfl
@[simp] theorem State.latchChar_resp (a : Byte) : (s.latchChar a).resp = s.resp := rfl
@[simp] theorem State.latchChar_opPage (a : Byte) : (s.latchChar a).opPage = s.opPage := rfl
@[simp] theorem State.latchChar_opCol (a : Byte) : (s.latchChar a).opCol = s.opCol := rfl
@[simp] theorem State.latchChar_opChar (a : Byte) : (s.latchChar a).opChar = a := rfl
@[simp] theorem State.latchChar_opByte (a : Byte) : (s.latchChar a).opByte = s.opByte := rfl
@[simp] theorem State.latchChar_opAddr (a : Byte) : (s.latchChar a).opAddr = s.opAddr := rfl
@[simp] theorem State.latchChar_cntPage (a : Byte) : (s.latchChar a).cntPage = s.cntPage := rfl
@[simp] theorem State.latchChar_cntCol (a : Byte) : (s.latchChar a).cntCol = s.cntCol := rfl
@[simp] theorem State.latchChar_cntGlyph (a : Byte) : (s.latchChar a).cntGlyph = s.cntGlyph := rfl
@[simp] theorem State.latchChar_textPtr (a : Byte) : (s.latchChar a).textPtr = s.textPtr := rfl
@[simp] theorem State.latchChar_initIdx (a : Byte) : (s.latchChar a).initIdx = s.initIdx := rfl
@[simp] theorem State.latchChar_lines (a : Byte) : (s.latchChar a).lines = s.lines := rfl
@[simp] theorem State.latchChar_spiStatus (a : Byte) : (s.latchChar a).spiStatus = s.spiStatus := rfl
@[simp] theorem State.latchChar_trace (a : Byte) : (s.latchChar a).trace = s.trace := rfl
@[simp] theorem State.latchChar_responses (a : Byte) : (s.latchChar a).responses = s.responses := rfl
@[simp] theorem State.latchChar_draws (a : Byte) : (s.latchChar a).draws = s.draws := rfl
@[simp] theorem State.latchChar_seen (a : Byte) : (s.latchChar a).seen = s.seen := rfl
@[simp] theorem State.latchChar_lcd (a : Byte) : (s.latchChar a).lcd = s.lcd := rfl

/-! latching the byte operand -/

@[simp] theorem State.latchByte_cfg (b : Byte) : (s.latchByte b).cfg = s.cfg := rfl
@[simp] theorem State.latchByte_stream (b : Byte) : (s.latchByte b).stream = s.stream := rfl
@[simp] theorem State.latchByte_text (b : Byte) : (s.latchByte b).text = s.text := rfl
@[simp] theorem State.latchByte_rip (b : Byte) : (s.latchByte b).rip = s.rip := rfl
@[simp] theorem State.latchByte_seq (b : Byte) : (s.latchByte b).seq = s.seq := rfl
@[simp] theorem State.latchByte_ready (b : Byte) : (s.latchByte b).ready = s.ready := rfl
@[simp] theorem State.latchByte_fault (b : Byte) : (s.latchByte b).fault = s.fault := rfl
@[simp] theorem State.latchByte_resp (b : Byte) : (s.latchByte b).resp = s.resp := rfl
@[simp] theorem State.latchByte_opPage (b : Byte) : (s.latchByte b).opPage = s.opPage := rfl
@[simp] theorem State.latchByte_opCol (b : Byte) : (s.latchByte b).opCol = s.opCol := rfl
@[simp] theorem State.latchByte_opChar (b : Byte) : (s.latchByte b).opChar = s.opChar := rfl
@[simp] theorem State.latchByte_opByte (b : Byte) : (s.latchByte b).opByte = b := rfl
@[simp] theorem State.latchByte_opAddr (b : Byte) : (s.latchByte b).opAddr = s.opAddr := rfl
@[simp] theorem State.latchByte_cntPage (b : Byte) : (s.latchByte b).cntPage = s.cntPage := rfl
@[simp] theorem State.latchByte_cntCol (b : Byte) : (s.latchByte b).cntCol = s.cntCol := rfl
@[simp] theorem State.latchByte_cntGlyph (b : Byte) : (s.latchByte b).cntGlyph = s.cntGlyph := rfl
@[simp] theorem State.latchByte_textPtr (b : Byte) : (s.latchByte b).textPtr = s.textPtr := rfl
@[simp] theorem State.latchByte_initIdx (b : Byte) : (s.latchByte b).initIdx = s.initIdx := rfl
@[simp] theorem State.latchByte_lines (b : Byte) : (s.latchByte b).lines = s.lines := rfl
@[simp] theorem State.latchByte_spiStatus (b : Byte) : (s.latchByte b).spiStatus = s.spiStatus := rfl
@[simp] theorem State.latchByte_trace (b : Byte) : (s.latchByte b).trace = s.trace := rfl
@[simp] theorem State.latchByte_responses (b : Byte) : (s.latchByte b).responses = s.responses := rfl
@[simp] theorem State.latchByte_draws (b : Byte) : (s.latchByte b).draws = s.draws := rfl
@[simp] theorem State.latchByte_seen (b : Byte) : (s.latchByte b).seen = s.seen := rfl
@[simp] theorem State.latchByte_lcd (b : Byte) : (s.latchByte b).lcd = s.lcd := rfl

/-! latching the address operand -/

@[simp] theorem State.latchAddr_cfg (a : Addr) : (s.latchAddr a).cfg = s.cfg := rfl
@[simp] theorem State.latchAddr_stream (a : Addr) : (s.latchAddr a).stream = s.stream := rfl
@[simp] theorem State.latchAddr_text (a : Addr) : (s.latchAddr a).text = s.text := rfl
@[simp] theorem State.latchAddr_rip (a : Addr) : (s.latchAddr a).rip = s.rip := rfl
@[simp] theorem State.latchAddr_seq (a : Addr) : (s.latchAddr a).seq = s.seq := rfl
@[simp] theorem State.latchAddr_ready (a : Addr) : (s.latchAddr a).ready = s.ready := rfl
@[simp] theorem State.latchAddr_fault (a : Addr) : (s.latchAddr a).fault = s.fault := rfl
@[simp] theorem State.latchAddr_resp (a : Addr) : (s.latchAddr a).resp = s.resp := rfl
@[simp] theorem State.latchAddr_opPage (a : Addr) : (s.latchAddr a).opPage = s.opPage := rfl
@[simp] theorem State.latchAddr_opCol (a : Addr) : (s.latchAddr a).opCol = s.opCol := rfl
@[simp] theorem State.latchAddr_opChar (a : Addr) : (s.latchAddr a).opChar = s.opChar := rfl
@[simp] theorem State.latchAddr_opByte (a : Addr) : (s.latchAddr a).opByte = s.opByte := rfl
@[simp] theorem State.latchAddr_opAddr (a : Addr) : (s.latchAddr a).opAddr = a := rfl
@[simp] theorem State.latchAddr_cntPage (a : Addr) : (s.latchAddr a).cntPage = s.cntPage := rfl
@[simp] theorem State.latchAddr_cntCol (a : Addr) : (s.latchAddr a).cntCol = s.cntCol := rfl
@[simp] theorem State.latchAddr_cntGlyph (a : Addr) : (s.latchAddr a).cntGlyph = s.cntGlyph := rfl
@[simp] theorem State.latchAddr_textPtr (a : Addr) : (s.latchAddr a).textPtr = s.textPtr := rfl
@[simp] theorem State.latchAddr_initIdx (a : Addr) : (s.latchAddr a).initIdx = s.initIdx := rfl
@[simp] theorem State.latchAddr_lines (a : Addr) : (s.latchAddr a).lines = s.lines := rfl
@[simp] theorem State.latchAddr_spiStatus (a : Addr) : (s.latchAddr a).spiStatus = s.spiStatus := rfl
@[simp] theorem State.latchAddr_trace (a : Addr) : (s.latchAddr a).trace = s.trace := rfl
@[simp] theorem State.latchAddr_responses (a : Addr) : (s.latchAddr a).responses = s.responses := rfl
@[simp] theorem State.latchAddr_draws (a : Addr) : (s.latchAddr a).draws = s.draws := rfl
@[simp] theorem State.latchAddr_seen (a : Addr) : (s.latchAddr a).seen = s.seen := rfl
@[simp] theorem State.latchAddr_lcd (a : Addr) : (s.latchAddr a).lcd = s.lcd := rfl

/-! the sweep counters become free values -/

@[simp] theorem State.forgetSweep_cfg : (s.forgetSweep).cfg = s.cfg := rfl
@[simp] theorem State.forgetSweep_stream : (s.forgetSweep).stream = s.stream := rfl
@[simp] theorem State.forgetSweep_text : (s.forgetSweep).text = s.text := rfl
@[simp] theorem State.forgetSweep_rip : (s.forgetSweep).rip = s.rip := rfl
@[simp] theorem State.forgetSweep_seq : (s.forgetSweep).seq = s.seq := rfl
@[simp] theorem State.forgetSweep_ready : (s.forgetSweep).ready = s.ready := rfl
@[simp] theorem State.forgetSweep_fault : (s.forgetSweep).fault = s.fault := rfl
@[simp] theorem State.forgetSweep_resp : (s.forgetSweep).resp = s.resp := rfl
@[simp] theorem State.forgetSweep_opPage : (s.forgetSweep).opPage = s.opPage := rfl
@[simp] theorem State.forgetSweep_opCol : (s.forgetSweep).opCol = s.opCol := rfl
@[simp] theorem State.forgetSweep_opChar : (s.forgetSweep).opChar = s.opChar := rfl
@[simp] theorem State.forgetSweep_opByte : (s.forgetSweep).opByte = s.opByte := rfl
@[simp] theorem State.forgetSweep_opAddr : (s.forgetSweep).opAddr = s.opAddr := rfl
@[simp] theorem State.forgetSweep_cntPage : (s.forgetSweep).cntPage = Config.freeCntPage s.draws := rfl
@[simp] theorem State.forgetSweep_cntCol : (s.forgetSweep).cntCol = Config.freeCntCol s.draws := rfl
@[simp] theorem State.forgetSweep_cntGlyph : (s.forgetSweep).cntGlyph = s.cntGlyph := rfl
@[simp] theorem State.forgetSweep_textPtr : (s.forgetSweep).textPtr = s.textPtr := rfl
@[simp] theorem State.forgetSweep_initIdx : (s.forgetSweep).initIdx = s.initIdx := rfl
@[simp] theorem State.forgetSweep_lines : (s.forgetSweep).lines = s.lines := rfl
@[simp] theorem State.forgetSweep_spiStatus : (s.forgetSweep).spiStatus = s.spiStatus := rfl
@[simp] theorem State.forgetSweep_trace : (s.forgetSweep).trace = s.trace := rfl
@[simp] theorem State.forgetSweep_responses : (s.forgetSweep).responses = s.responses := rfl
@[simp] theorem State.forgetSweep_draws : (s.forgetSweep).draws = s.draws + 1 := rfl
@[simp] theorem State.forgetSweep_seen : (s.forgetSweep).seen = s.seen := rfl
@[simp] theorem State.forgetSweep_lcd : (s.forgetSweep).lcd = s.lcd := rfl

/-! CNT_GLYPH becomes a free value -/

@[simp] theorem State.forgetGlyph_cfg : (s.forgetGlyph).cfg = s.cfg := rfl
@[simp] theorem State.forgetGlyph_stream : (s.forgetGlyph).stream = s.stream := rfl
@[simp] theorem State.forgetGlyph_text : (s.forgetGlyph).text = s.text := rfl
@[simp] theorem State.forgetGlyph_rip : (s.forgetGlyph).rip = s.rip := rfl
@[simp] theorem State.forgetGlyph_seq : (s.forgetGlyph).seq = s.seq := rfl
@[simp] theorem State.forgetGlyph_ready : (s.forgetGlyph).ready = s.ready := rfl
@[simp] theorem State.forgetGlyph_fault : (s.forgetGlyph).fault = s.fault := rfl
@[simp] theorem State.forgetGlyph_resp : (s.forgetGlyph).resp = s.resp := rfl
@[simp] theorem State.forgetGlyph_opPage : (s.forgetGlyph).opPage = s.opPage := rfl
@[simp] theorem State.forgetGlyph_opCol : (s.forgetGlyph).opCol = s.opCol := rfl
@[simp] theorem State.forgetGlyph_opChar : (s.forgetGlyph).opChar = s.opChar := rfl
@[simp] theorem State.forgetGlyph_opByte : (s.forgetGlyph).opByte = s.opByte := rfl
@[simp] theorem State.forgetGlyph_opAddr : (s.forgetGlyph).opAddr = s.opAddr := rfl
@[simp] theorem State.forgetGlyph_cntPage : (s.forgetGlyph).cntPage = s.cntPage := rfl
@[simp] theorem State.forgetGlyph_cntCol : (s.forgetGlyph).cntCol = s.cntCol := rfl
@[simp] theorem State.forgetGlyph_cntGlyph : (s.forgetGlyph).cntGlyph = Config.freeCntGlyph s.draws := rfl
@[simp] theorem State.forgetGlyph_textPtr : (s.forgetGlyph).textPtr = s.textPtr := rfl
@[simp] theorem State.forgetGlyph_initIdx : (s.forgetGlyph).initIdx = s.initIdx := rfl
@[simp] theorem State.forgetGlyph_lines : (s.forgetGlyph).lines = s.lines := rfl
@[simp] theorem State.forgetGlyph_spiStatus : (s.forgetGlyph).spiStatus = s.spiStatus := rfl
@[simp] theorem State.forgetGlyph_trace : (s.forgetGlyph).trace = s.trace := rfl
@[simp] theorem State.forgetGlyph_responses : (s.forgetGlyph).responses = s.responses := rfl
@[simp] theorem State.forgetGlyph_draws : (s.forgetGlyph).draws = s.draws + 1 := rfl
@[simp] theorem State.forgetGlyph_seen : (s.forgetGlyph).seen = s.seen := rfl
@[simp] theorem State.forgetGlyph_lcd : (s.forgetGlyph).lcd = s.lcd := rfl

/-! TEXT_PTR becomes a free value -/

@[simp] theorem State.forgetTextPtr_cfg : (s.forgetTextPtr).cfg = s.cfg := rfl
@[simp] theorem State.forgetTextPtr_stream : (s.forgetTextPtr).stream = s.stream := rfl
@[simp] theorem State.forgetTextPtr_text : (s.forgetTextPtr).text = s.text := rfl
@[simp] theorem State.forgetTextPtr_rip : (s.forgetTextPtr).rip = s.rip := rfl
@[simp] theorem State.forgetTextPtr_seq : (s.forgetTextPtr).seq = s.seq := rfl
@[simp] theorem State.forgetTextPtr_ready : (s.forgetTextPtr).ready = s.ready := rfl
@[simp] theorem State.forgetTextPtr_fault : (s.forgetTextPtr).fault = s.fault := rfl
@[simp] theorem State.forgetTextPtr_resp : (s.forgetTextPtr).resp = s.resp := rfl
@[simp] theorem State.forgetTextPtr_opPage : (s.forgetTextPtr).opPage = s.opPage := rfl
@[simp] theorem State.forgetTextPtr_opCol : (s.forgetTextPtr).opCol = s.opCol := rfl
@[simp] theorem State.forgetTextPtr_opChar : (s.forgetTextPtr).opChar = s.opChar := rfl
@[simp] theorem State.forgetTextPtr_opByte : (s.forgetTextPtr).opByte = s.opByte := rfl
@[simp] theorem State.forgetTextPtr_opAddr : (s.forgetTextPtr).opAddr = s.opAddr := rfl
@[simp] theorem State.forgetTextPtr_cntPage : (s.forgetTextPtr).cntPage = s.cntPage := rfl
@[simp] theorem State.forgetTextPtr_cntCol : (s.forgetTextPtr).cntCol = s.cntCol := rfl
@[simp] theorem State.forgetTextPtr_cntGlyph : (s.forgetTextPtr).cntGlyph = s.cntGlyph := rfl
@[simp] theorem State.forgetTextPtr_textPtr : (s.forgetTextPtr).textPtr = Config.freeTextPtr s.draws := rfl
@[simp] theorem State.forgetTextPtr_initIdx : (s.forgetTextPtr).initIdx = s.initIdx := rfl
@[simp] theorem State.forgetTextPtr_lines : (s.forgetTextPtr).lines = s.lines := rfl
@[simp] theorem State.forgetTextPtr_spiStatus : (s.forgetTextPtr).spiStatus = s.spiStatus := rfl
@[simp] theorem State.forgetTextPtr_trace : (s.forgetTextPtr).trace = s.trace := rfl
@[simp] theorem State.forgetTextPtr_responses : (s.forgetTextPtr).responses = s.responses := rfl
@[simp] theorem State.forgetTextPtr_draws : (s.forgetTextPtr).draws = s.draws + 1 := rfl
@[simp] theorem State.forgetTextPtr_seen : (s.forgetTextPtr).seen = s.seen := rfl
@[simp] theorem State.forgetTextPtr_lcd : (s.forgetTextPtr).lcd = s.lcd := rfl

/-! INIT_IDX becomes a free value -/

@[simp] theorem State.forgetInitIdx_cfg : (s.forgetInitIdx).cfg = s.cfg := rfl
@[simp] theorem State.forgetInitIdx_stream : (s.forgetInitIdx).stream = s.stream := rfl
@[simp] theorem State.forgetInitIdx_text : (s.forgetInitIdx).text = s.text := rfl
@[simp] theorem State.forgetInitIdx_rip : (s.forgetInitIdx).rip = s.rip := rfl
@[simp] theorem State.forgetInitIdx_seq : (s.forgetInitIdx).seq = s.seq := rfl
@[simp] theorem State.forgetInitIdx_ready : (s.forgetInitIdx).ready = s.ready := rfl
@[simp] theorem State.forgetInitIdx_fault : (s.forgetInitIdx).fault = s.fault := rfl
@[simp] theorem State.forgetInitIdx_resp : (s.forgetInitIdx).resp = s.resp := rfl
@[simp] theorem State.forgetInitIdx_opPage : (s.forgetInitIdx).opPage = s.opPage := rfl
@[simp] theorem State.forgetInitIdx_opCol : (s.forgetInitIdx).opCol = s.opCol := rfl
@[simp] theorem State.forgetInitIdx_opChar : (s.forgetInitIdx).opChar = s.opChar := rfl
@[simp] theorem State.forgetInitIdx_opByte : (s.forgetInitIdx).opByte = s.opByte := rfl
@[simp] theorem State.forgetInitIdx_opAddr : (s.forgetInitIdx).opAddr = s.opAddr := rfl
@[simp] theorem State.forgetInitIdx_cntPage : (s.forgetInitIdx).cntPage = s.cntPage := rfl
@[simp] theorem State.forgetInitIdx_cntCol : (s.forgetInitIdx).cntCol = s.cntCol := rfl
@[simp] theorem State.forgetInitIdx_cntGlyph : (s.forgetInitIdx).cntGlyph = s.cntGlyph := rfl
@[simp] theorem State.forgetInitIdx_textPtr : (s.forgetInitIdx).textPtr = s.textPtr := rfl
@[simp] theorem State.forgetInitIdx_initIdx : (s.forgetInitIdx).initIdx = Config.freeInitIdx s.draws := rfl
@[simp] theorem State.forgetInitIdx_lines : (s.forgetInitIdx).lines = s.lines := rfl
@[simp] theorem State.forgetInitIdx_spiStatus : (s.forgetInitIdx).spiStatus = s.spiStatus := rfl
@[simp] theorem State.forgetInitIdx_trace : (s.forgetInitIdx).trace = s.trace := rfl
@[simp] theorem State.forgetInitIdx_responses : (s.forgetInitIdx).responses = s.responses := rfl
@[simp] theorem State.forgetInitIdx_draws : (s.forgetInitIdx).draws = s.draws + 1 := rfl
@[simp] theorem State.forgetInitIdx_seen : (s.forgetInitIdx).seen = s.seen := rfl
@[simp] theorem State.forgetInitIdx_lcd : (s.forgetInitIdx).lcd = s.lcd := rfl

/-! SPI_STATUS becomes a free value -/

@[simp] theorem State.clearSpiStatus_cfg : (s.clearSpiStatus).cfg = s.cfg := rfl
@[simp] theorem State.clearSpiStatus_stream : (s.clearSpiStatus).stream = s.stream := rfl
@[simp] theorem State.clearSpiStatus_text : (s.clearSpiStatus).text = s.text := rfl
@[simp] theorem State.clearSpiStatus_rip : (s.clearSpiStatus).rip = s.rip := rfl
@[simp] theorem State.clearSpiStatus_seq : (s.clearSpiStatus).seq = s.seq := rfl
@[simp] theorem State.clearSpiStatus_ready : (s.clearSpiStatus).ready = s.ready := rfl
@[simp] theorem State.clearSpiStatus_fault : (s.clearSpiStatus).fault = s.fault := rfl
@[simp] theorem State.clearSpiStatus_resp : (s.clearSpiStatus).resp = s.resp := rfl
@[simp] theorem State.clearSpiStatus_opPage : (s.clearSpiStatus).opPage = s.opPage := rfl
@[simp] theorem State.clearSpiStatus_opCol : (s.clearSpiStatus).opCol = s.opCol := rfl
@[simp] theorem State.clearSpiStatus_opChar : (s.clearSpiStatus).opChar = s.opChar := rfl
@[simp] theorem State.clearSpiStatus_opByte : (s.clearSpiStatus).opByte = s.opByte := rfl
@[simp] theorem State.clearSpiStatus_opAddr : (s.clearSpiStatus).opAddr = s.opAddr := rfl
@[simp] theorem State.clearSpiStatus_cntPage : (s.clearSpiStatus).cntPage = s.cntPage := rfl
@[simp] theorem State.clearSpiStatus_cntCol : (s.clearSpiStatus).cntCol = s.cntCol := rfl
@[simp] theorem State.clearSpiStatus_cntGlyph : (s.clearSpiStatus).cntGlyph = s.cntGlyph := rfl
@[simp] theorem State.clearSpiStatus_textPtr : (s.clearSpiStatus).textPtr = s.textPtr := rfl
@[simp] theorem State.clearSpiStatus_initIdx : (s.clearSpiStatus).initIdx = s.initIdx := rfl
@[simp] theorem State.clearSpiStatus_lines : (s.clearSpiStatus).lines = s.lines := rfl
@[simp] theorem State.clearSpiStatus_spiStatus : (s.clearSpiStatus).spiStatus = Config.freeSpiStatus s.draws := rfl
@[simp] theorem State.clearSpiStatus_trace : (s.clearSpiStatus).trace = s.trace := rfl
@[simp] theorem State.clearSpiStatus_responses : (s.clearSpiStatus).responses = s.responses := rfl
@[simp] theorem State.clearSpiStatus_draws : (s.clearSpiStatus).draws = s.draws + 1 := rfl
@[simp] theorem State.clearSpiStatus_seen : (s.clearSpiStatus).seen = s.seen := rfl
@[simp] theorem State.clearSpiStatus_lcd : (s.clearSpiStatus).lcd = s.lcd := rfl

/-! drawing one glyph -/

@[simp] theorem State.renderGlyph_cfg (a : Byte) : (s.renderGlyph a).cfg = s.cfg := rfl
@[simp] theorem State.renderGlyph_stream (a : Byte) : (s.renderGlyph a).stream = s.stream := rfl
@[simp] theorem State.renderGlyph_text (a : Byte) : (s.renderGlyph a).text = s.text := rfl
@[simp] theorem State.renderGlyph_rip (a : Byte) : (s.renderGlyph a).rip = s.rip := rfl
@[simp] theorem State.renderGlyph_seq (a : Byte) : (s.renderGlyph a).seq = s.seq := rfl
@[simp] theorem State.renderGlyph_ready (a : Byte) : (s.renderGlyph a).ready = s.ready := rfl
@[simp] theorem State.renderGlyph_fault (a : Byte) : (s.renderGlyph a).fault = s.fault := rfl
@[simp] theorem State.renderGlyph_resp (a : Byte) : (s.renderGlyph a).resp = s.resp := rfl
@[simp] theorem State.renderGlyph_opPage (a : Byte) : (s.renderGlyph a).opPage = s.opPage := rfl
@[simp] theorem State.renderGlyph_opCol (a : Byte) : (s.renderGlyph a).opCol = s.opCol := rfl
@[simp] theorem State.renderGlyph_opChar (a : Byte) : (s.renderGlyph a).opChar = s.opChar := rfl
@[simp] theorem State.renderGlyph_opByte (a : Byte) : (s.renderGlyph a).opByte = s.opByte := rfl
@[simp] theorem State.renderGlyph_opAddr (a : Byte) : (s.renderGlyph a).opAddr = s.opAddr := rfl
@[simp] theorem State.renderGlyph_cntPage (a : Byte) : (s.renderGlyph a).cntPage = s.cntPage := rfl
@[simp] theorem State.renderGlyph_cntCol (a : Byte) : (s.renderGlyph a).cntCol = s.cntCol := rfl
@[simp] theorem State.renderGlyph_cntGlyph (a : Byte) : (s.renderGlyph a).cntGlyph = glyphLoopEnd s.cfg.glyphWidth s.draws := rfl
@[simp] theorem State.renderGlyph_textPtr (a : Byte) : (s.renderGlyph a).textPtr = s.textPtr := rfl
@[simp] theorem State.renderGlyph_initIdx (a : Byte) : (s.renderGlyph a).initIdx = s.initIdx := rfl
@[simp] theorem State.renderGlyph_lines (a : Byte) : (s.renderGlyph a).lines = (glyphWrite s.cfg s.draws a).foldl Lines.drive s.lines := rfl
@[simp] theorem State.renderGlyph_spiStatus (a : Byte) : (s.renderGlyph a).spiStatus = s.spiStatus := rfl
@[simp] theorem State.renderGlyph_trace (a : Byte) : (s.renderGlyph a).trace = s.trace ++ glyphWrite s.cfg s.draws a := rfl
@[simp] theorem State.renderGlyph_responses (a : Byte) : (s.renderGlyph a).responses = s.responses := rfl
@[simp] theorem State.renderGlyph_draws (a : Byte) : (s.renderGlyph a).draws = s.draws + s.cfg.glyphWidth := rfl
@[simp] theorem State.renderGlyph_seen (a : Byte) : (s.renderGlyph a).seen = s.seen := rfl
@[simp] theorem State.renderGlyph_lcd (a : Byte) : (s.renderGlyph a).lcd = s.lcd := rfl

/-! positioning the cursor of a string -/

@[simp] theorem State.startDrawing_cfg : (s.startDrawing).cfg = s.cfg := rfl
@[simp] theorem State.startDrawing_stream : (s.startDrawing).stream = s.stream := rfl
@[simp] theorem State.startDrawing_text : (s.startDrawing).text = s.text := rfl
@[simp] theorem State.startDrawing_rip : (s.startDrawing).rip = s.rip := rfl
@[simp] theorem State.startDrawing_seq : (s.startDrawing).seq = .busy .draw := rfl
@[simp] theorem State.startDrawing_ready : (s.startDrawing).ready = s.ready := rfl
@[simp] theorem State.startDrawing_fault : (s.startDrawing).fault = s.fault := rfl
@[simp] theorem State.startDrawing_resp : (s.startDrawing).resp = s.resp := rfl
@[simp] theorem State.startDrawing_opPage : (s.startDrawing).opPage = s.opPage := rfl
@[simp] theorem State.startDrawing_opCol : (s.startDrawing).opCol = s.opCol := rfl
@[simp] theorem State.startDrawing_opChar : (s.startDrawing).opChar = s.opChar := rfl
@[simp] theorem State.startDrawing_opByte : (s.startDrawing).opByte = s.opByte := rfl
@[simp] theorem State.startDrawing_opAddr : (s.startDrawing).opAddr = s.opAddr := rfl
@[simp] theorem State.startDrawing_cntPage : (s.startDrawing).cntPage = s.cntPage := rfl
@[simp] theorem State.startDrawing_cntCol : (s.startDrawing).cntCol = s.cntCol := rfl
@[simp] theorem State.startDrawing_cntGlyph : (s.startDrawing).cntGlyph = s.cntGlyph := rfl
@[simp] theorem State.startDrawing_textPtr : (s.startDrawing).textPtr = s.opAddr := rfl
@[simp] theorem State.startDrawing_initIdx : (s.startDrawing).initIdx = s.initIdx := rfl
@[simp] theorem State.startDrawing_lines : (s.startDrawing).lines = (cursorWrite s.opPage s.opCol).foldl Lines.drive s.lines := rfl
@[simp] theorem State.startDrawing_spiStatus : (s.startDrawing).spiStatus = s.spiStatus := rfl
@[simp] theorem State.startDrawing_trace : (s.startDrawing).trace = s.trace ++ cursorWrite s.opPage s.opCol := rfl
@[simp] theorem State.startDrawing_responses : (s.startDrawing).responses = s.responses := rfl
@[simp] theorem State.startDrawing_draws : (s.startDrawing).draws = s.draws := rfl
@[simp] theorem State.startDrawing_seen : (s.startDrawing).seen = s.seen := rfl
@[simp] theorem State.startDrawing_lcd : (s.startDrawing).lcd = s.lcd := rfl

/-! reading an event counts it, and only the observer is set -/

@[simp] theorem State.readEvent_cfg : (s.readEvent).cfg = s.cfg := rfl
@[simp] theorem State.readEvent_stream : (s.readEvent).stream = s.stream := rfl
@[simp] theorem State.readEvent_text : (s.readEvent).text = s.text := rfl
@[simp] theorem State.readEvent_rip : (s.readEvent).rip = s.rip := rfl
@[simp] theorem State.readEvent_seq : (s.readEvent).seq = s.seq := rfl
@[simp] theorem State.readEvent_ready : (s.readEvent).ready = s.ready := rfl
@[simp] theorem State.readEvent_fault : (s.readEvent).fault = s.fault := rfl
@[simp] theorem State.readEvent_resp : (s.readEvent).resp = s.resp := rfl
@[simp] theorem State.readEvent_opPage : (s.readEvent).opPage = s.opPage := rfl
@[simp] theorem State.readEvent_opCol : (s.readEvent).opCol = s.opCol := rfl
@[simp] theorem State.readEvent_opChar : (s.readEvent).opChar = s.opChar := rfl
@[simp] theorem State.readEvent_opByte : (s.readEvent).opByte = s.opByte := rfl
@[simp] theorem State.readEvent_opAddr : (s.readEvent).opAddr = s.opAddr := rfl
@[simp] theorem State.readEvent_cntPage : (s.readEvent).cntPage = s.cntPage := rfl
@[simp] theorem State.readEvent_cntCol : (s.readEvent).cntCol = s.cntCol := rfl
@[simp] theorem State.readEvent_cntGlyph : (s.readEvent).cntGlyph = s.cntGlyph := rfl
@[simp] theorem State.readEvent_textPtr : (s.readEvent).textPtr = s.textPtr := rfl
@[simp] theorem State.readEvent_initIdx : (s.readEvent).initIdx = s.initIdx := rfl
@[simp] theorem State.readEvent_lines : (s.readEvent).lines = s.lines := rfl
@[simp] theorem State.readEvent_spiStatus : (s.readEvent).spiStatus = s.spiStatus := rfl
@[simp] theorem State.readEvent_trace : (s.readEvent).trace = s.trace := rfl
@[simp] theorem State.readEvent_responses : (s.readEvent).responses = s.responses := rfl
@[simp] theorem State.readEvent_draws : (s.readEvent).draws = s.draws := rfl
@[simp] theorem State.readEvent_seen : (s.readEvent).seen = s.seen + 1 := rfl
@[simp] theorem State.readEvent_lcd : (s.readEvent).lcd = s.lcd := rfl

@[simp] theorem State.setLcd_cfg (o : Controller) : (s.setLcd o).cfg = s.cfg := rfl
@[simp] theorem State.setLcd_stream (o : Controller) : (s.setLcd o).stream = s.stream := rfl
@[simp] theorem State.setLcd_text (o : Controller) : (s.setLcd o).text = s.text := rfl
@[simp] theorem State.setLcd_rip (o : Controller) : (s.setLcd o).rip = s.rip := rfl
@[simp] theorem State.setLcd_seq (o : Controller) : (s.setLcd o).seq = s.seq := rfl
@[simp] theorem State.setLcd_ready (o : Controller) : (s.setLcd o).ready = s.ready := rfl
@[simp] theorem State.setLcd_fault (o : Controller) : (s.setLcd o).fault = s.fault := rfl
@[simp] theorem State.setLcd_resp (o : Controller) : (s.setLcd o).resp = s.resp := rfl
@[simp] theorem State.setLcd_opPage (o : Controller) : (s.setLcd o).opPage = s.opPage := rfl
@[simp] theorem State.setLcd_opCol (o : Controller) : (s.setLcd o).opCol = s.opCol := rfl
@[simp] theorem State.setLcd_opChar (o : Controller) : (s.setLcd o).opChar = s.opChar := rfl
@[simp] theorem State.setLcd_opByte (o : Controller) : (s.setLcd o).opByte = s.opByte := rfl
@[simp] theorem State.setLcd_opAddr (o : Controller) : (s.setLcd o).opAddr = s.opAddr := rfl
@[simp] theorem State.setLcd_cntPage (o : Controller) : (s.setLcd o).cntPage = s.cntPage := rfl
@[simp] theorem State.setLcd_cntCol (o : Controller) : (s.setLcd o).cntCol = s.cntCol := rfl
@[simp] theorem State.setLcd_cntGlyph (o : Controller) : (s.setLcd o).cntGlyph = s.cntGlyph := rfl
@[simp] theorem State.setLcd_textPtr (o : Controller) : (s.setLcd o).textPtr = s.textPtr := rfl
@[simp] theorem State.setLcd_initIdx (o : Controller) : (s.setLcd o).initIdx = s.initIdx := rfl
@[simp] theorem State.setLcd_lines (o : Controller) : (s.setLcd o).lines = s.lines := rfl
@[simp] theorem State.setLcd_spiStatus (o : Controller) : (s.setLcd o).spiStatus = s.spiStatus := rfl
@[simp] theorem State.setLcd_trace (o : Controller) : (s.setLcd o).trace = s.trace := rfl
@[simp] theorem State.setLcd_responses (o : Controller) : (s.setLcd o).responses = s.responses := rfl
@[simp] theorem State.setLcd_draws (o : Controller) : (s.setLcd o).draws = s.draws := rfl
@[simp] theorem State.setLcd_seen (o : Controller) : (s.setLcd o).seen = s.seen := rfl
@[simp] theorem State.setLcd_lcd (o : Controller) : (s.setLcd o).lcd = o := rfl

/-! a reading of the controller touches the observer only -/

@[simp] theorem State.observe_lcd (f : Controller → Controller) :
    (s.observe f).lcd = if s.lcd.valid then f s.lcd else s.lcd := by
  unfold State.observe; split <;> rfl

@[simp] theorem State.observe_cfg (f : Controller → Controller) : (s.observe f).cfg = s.cfg := by
  unfold State.observe; split <;> rfl

@[simp] theorem State.observe_stream (f : Controller → Controller) : (s.observe f).stream = s.stream := by
  unfold State.observe; split <;> rfl

@[simp] theorem State.observe_text (f : Controller → Controller) : (s.observe f).text = s.text := by
  unfold State.observe; split <;> rfl

@[simp] theorem State.observe_rip (f : Controller → Controller) : (s.observe f).rip = s.rip := by
  unfold State.observe; split <;> rfl

@[simp] theorem State.observe_seq (f : Controller → Controller) : (s.observe f).seq = s.seq := by
  unfold State.observe; split <;> rfl

@[simp] theorem State.observe_ready (f : Controller → Controller) : (s.observe f).ready = s.ready := by
  unfold State.observe; split <;> rfl

@[simp] theorem State.observe_fault (f : Controller → Controller) : (s.observe f).fault = s.fault := by
  unfold State.observe; split <;> rfl

@[simp] theorem State.observe_resp (f : Controller → Controller) : (s.observe f).resp = s.resp := by
  unfold State.observe; split <;> rfl

@[simp] theorem State.observe_opPage (f : Controller → Controller) : (s.observe f).opPage = s.opPage := by
  unfold State.observe; split <;> rfl

@[simp] theorem State.observe_opCol (f : Controller → Controller) : (s.observe f).opCol = s.opCol := by
  unfold State.observe; split <;> rfl

@[simp] theorem State.observe_opChar (f : Controller → Controller) : (s.observe f).opChar = s.opChar := by
  unfold State.observe; split <;> rfl

@[simp] theorem State.observe_opByte (f : Controller → Controller) : (s.observe f).opByte = s.opByte := by
  unfold State.observe; split <;> rfl

@[simp] theorem State.observe_opAddr (f : Controller → Controller) : (s.observe f).opAddr = s.opAddr := by
  unfold State.observe; split <;> rfl

@[simp] theorem State.observe_cntPage (f : Controller → Controller) : (s.observe f).cntPage = s.cntPage := by
  unfold State.observe; split <;> rfl

@[simp] theorem State.observe_cntCol (f : Controller → Controller) : (s.observe f).cntCol = s.cntCol := by
  unfold State.observe; split <;> rfl

@[simp] theorem State.observe_cntGlyph (f : Controller → Controller) : (s.observe f).cntGlyph = s.cntGlyph := by
  unfold State.observe; split <;> rfl

@[simp] theorem State.observe_textPtr (f : Controller → Controller) : (s.observe f).textPtr = s.textPtr := by
  unfold State.observe; split <;> rfl

@[simp] theorem State.observe_initIdx (f : Controller → Controller) : (s.observe f).initIdx = s.initIdx := by
  unfold State.observe; split <;> rfl

@[simp] theorem State.observe_lines (f : Controller → Controller) : (s.observe f).lines = s.lines := by
  unfold State.observe; split <;> rfl

@[simp] theorem State.observe_spiStatus (f : Controller → Controller) : (s.observe f).spiStatus = s.spiStatus := by
  unfold State.observe; split <;> rfl

@[simp] theorem State.observe_trace (f : Controller → Controller) : (s.observe f).trace = s.trace := by
  unfold State.observe; split <;> rfl

@[simp] theorem State.observe_responses (f : Controller → Controller) : (s.observe f).responses = s.responses := by
  unfold State.observe; split <;> rfl

@[simp] theorem State.observe_draws (f : Controller → Controller) : (s.observe f).draws = s.draws := by
  unfold State.observe; split <;> rfl

@[simp] theorem State.observe_seen (f : Controller → Controller) : (s.observe f).seen = s.seen := by
  unfold State.observe; split <;> rfl

/-- A reading of the controller as one record update. -/
theorem State.observe_eq (f : Controller → Controller) :
    s.observe f = { s with lcd := if s.lcd.valid then f s.lcd else s.lcd } := by
  unfold State.observe; split <;> rfl

theorem State.record_eq (f : LcdRegs → LcdRegs) :
    s.record f = s.observe fun o => { o with regs := f o.regs } := rfl

end Sys2Proof.Machine
end

