-- ==== Sys2Proof/Laws/Observer.lean ====
section
/-! SUPPORT. The reference observer: that running a decoded command byte is the ordered reading of it, what one frame
and a run of command frames do to the observer, when a reset pulse is held, and what a data byte does to the surface. -/

namespace Sys2Proof.Machine

/-! A command byte -/

/-- A byte is its two nibbles. -/
theorem byte_of_nibbles (b : Byte) : b = BitVec.ofNat 8 (16 * (highNibble b).toNat + (lowNibble b).toNat) := by
  revert b; decide

/-- Masking the low nibble leaves the high one. -/
theorem mask_of_nibbles (b : Byte) : b &&& 0xF0 = BitVec.ofNat 8 (16 * (highNibble b).toNat) := by
  revert b; decide

theorem mask_or_low (b : Byte) : (b &&& 0xF0) ||| (0#4 ++ lowNibble b) = b := by
  revert b; decide

theorem nibbles_append (b : Byte) : highNibble b ++ lowNibble b = b := by
  revert b; decide

theorem observe_congr {s : State} {f g : Controller → Controller} (h : f s.lcd = g s.lcd) :
    s.observe f = s.observe g := by
  unfold State.observe; rw [h]

/-- A command byte outside the volume pair: what decoding it and running it does is the ordered reading. -/
theorem exec_decodeCommand {b : Byte} {i : Instr} (h : decodeCommand b = .ok i) {s : State}
    (hv : s.lcd.volPending = false) : exec i s = .next (s.observe (Controller.readCommand b)) := by
  have hb := byte_of_nibbles b
  have hm := mask_of_nibbles b
  have hread : ∀ f : Controller → Controller, s.lcd.readCommand b = f s.lcd →
      Host.Outcome.next (s.observe f) = (.next (s.observe (Controller.readCommand b)) : Host.Outcome State Fault Refusal) :=
    fun f hf => congrArg _ (observe_congr hf.symm)
  unfold Controller.readCommand at hread
  rw [if_neg (by simp [hv])] at hread
  unfold decodeCommand at h
  split at h
  case h_14 => cases h
  all_goals injection h with h; subst h; refine hread _ ?_
  case h_2 h1 =>

    have hm : b &&& 0xF0 = 0xB0 := hm.trans (by rw [h1]; rfl)
    rw [if_neg (by rintro rfl; cases h1), if_pos hm]
  case h_3 h1 =>
    have hm : b &&& 0xF0 = 0x10 := hm.trans (by rw [h1]; rfl)
    rw [if_neg (by rintro rfl; cases h1), if_neg (by rw [hm]; decide), if_pos hm]
  case h_4 h1 =>
    have hm : b &&& 0xF0 = 0x00 := hm.trans (by rw [h1]; rfl)
    rw [if_neg (by rintro rfl; cases h1), if_neg (by rw [hm]; decide), if_neg (by rw [hm]; decide), if_pos hm]
  all_goals
    rename_i h1 h2
    rw [h1, h2] at hb
    subst hb
    rfl

/-- A command byte outside the volume pair that has no meaning loses the observer. -/
theorem readCommand_error {b : Byte} {e : DecodeError} (h : decodeCommand b = .error e) {o : Controller}
    (hv : o.volPending = false) : o.readCommand b = o.lose := by
  have hlit : ∀ v : Byte, (decodeCommand v).isOk = true → b ≠ v := by
    rintro _ hv rfl
    rw [h] at hv; cases hv
  have hhi : ∀ v : Byte, (∀ n : Nibble, (decodeCommand (v ||| (0#4 ++ n))).isOk = true) → b &&& 0xF0 ≠ v := by
    rintro v hv rfl
    have := hv (lowNibble b)
    rw [mask_or_low, h] at this
    cases this
  unfold Controller.readCommand
  rw [if_neg (by simp [hv]), if_neg (hlit _ (by decide)), if_neg (hhi _ (by decide)), if_neg (hhi _ (by decide)),
    if_neg (hhi _ (by decide)), if_neg (hlit _ (by decide)), if_neg (not_or.2 ⟨hlit _ (by decide), hlit _ (by decide)⟩),
    if_neg (hlit _ (by decide)), if_neg (hlit _ (by decide)), if_neg (hlit _ (by decide)), if_neg (hlit _ (by decide)),
    if_neg (hlit _ (by decide)), if_neg (hlit _ (by decide))]
  rfl

/-! One frame -/

/-- The lines of the observer. -/
def Controller.withLines (o : Controller) (x : Option Switch) (m : Option Mode) : Controller :=
  { o with cs := x, dc := m }

theorem readCommand_withLines (o : Controller) (x : Option Switch) (m : Option Mode) (b : Byte) :
    (o.withLines x m).readCommand b = (o.readCommand b).withLines x m := by
  unfold Controller.readCommand
  simp only [apply_ite (Controller.withLines · x m)]
  rfl

/-- The column after a data write, none where it is unknown. -/
def Controller.nextColumn (c : Config) (o : Controller) : Option Nat :=
  o.column.bind fun col => if col + 1 < c.columns then some (col + 1) else none

/-- A data byte outside the volume pair changes the cells and the column latch. -/
theorem dataByte_eq {o : Controller} (hv : o.volPending = false) (c : Config) (b : Byte) :
    o.dataByte c b = { o with
      vram := o.vramAfter c b
      colHi := (o.nextColumn c).map fun col => highNibble (BitVec.ofNat 8 col)
      colLo := (o.nextColumn c).map fun col => lowNibble (BitVec.ofNat 8 col) } := by
  unfold Controller.dataByte Controller.advance Controller.nextColumn
  rw [if_neg (by simp [hv])]
  change (match o.column with | some col => _ | none => _) = _
  cases o.column with
  | none => rfl
  | some col => by_cases h : col + 1 < c.columns <;> simp [h]

theorem dataByte_pending {o : Controller} (hv : o.volPending = true) (c : Config) (b : Byte) :
    o.dataByte c b = o.lose := if_pos hv

/-- The latched column is below 256. -/
theorem column_lt {o : Controller} {col : Nat} (h : o.column = some col) : col < 256 := by
  unfold Controller.column at h
  split at h
  · injection h with h; subst h; exact BitVec.isLt _
  · cases h

/-- A column set from its two nibbles reads back. -/
theorem column_of_nibbles {o : Controller} {x : Option Nat} (hx : ∀ col, x = some col → col < 256)
    (hh : o.colHi = x.map fun col => highNibble (BitVec.ofNat 8 col))
    (hl : o.colLo = x.map fun col => lowNibble (BitVec.ofNat 8 col)) : o.column = x := by
  unfold Controller.column
  rw [hh, hl]
  cases x with
  | none => rfl
  | some col =>
    have h : highNibble (BitVec.ofNat 8 col) ++ lowNibble (BitVec.ofNat 8 col) = BitVec.ofNat 8 col :=
      nibbles_append _
    simpa [h] using hx col rfl

/-- The column after a data byte. -/
theorem dataByte_column {o : Controller} (hv : o.volPending = false) {c : Config} (hc : c.columns ≤ 256) (b : Byte) :
    (o.dataByte c b).column = o.nextColumn c := by
  refine column_of_nibbles (fun col h => ?_) (by rw [dataByte_eq hv]) (by rw [dataByte_eq hv])
  unfold Controller.nextColumn at h
  cases ho : o.column with
  | none => simp [ho] at h
  | some k => simp only [ho, Option.bind_some] at h; split at h <;> simp_all; omega

theorem dataByte_withLines (o : Controller) (x : Option Switch) (m : Option Mode) (c : Config) (b : Byte) :
    (o.withLines x m).dataByte c b = (o.dataByte c b).withLines x m := by
  cases hv : o.volPending with
  | true => rw [dataByte_pending hv, dataByte_pending (o := o.withLines x m) hv]; rfl
  | false => rw [dataByte_eq hv, dataByte_eq (o := o.withLines x m) hv]; rfl

theorem dataByte_frame (o : Controller) (c : Config) (b : Byte) :
    (o.dataByte c b).page = o.page ∧ (o.dataByte c b).regs = o.regs ∧ (o.dataByte c b).volPending = o.volPending
      ∧ (o.dataByte c b).pulse = o.pulse ∧ (o.volPending = false → (o.dataByte c b).valid = o.valid) := by
  cases hv : o.volPending with
  | true => rw [dataByte_pending hv]; exact ⟨rfl, rfl, hv, rfl, fun h => (by cases h)⟩
  | false => rw [dataByte_eq hv]; exact ⟨rfl, rfl, hv, rfl, fun _ => rfl⟩

/-- Both nibbles of a column up to 256 are those of its byte. -/
theorem nibbles_of_column (col : Nat) : BitVec.ofNat 4 (col / 16) = highNibble (BitVec.ofNat 8 col)
    ∧ BitVec.ofNat 4 col = lowNibble (BitVec.ofNat 8 col) := by
  constructor <;> apply BitVec.eq_of_toNat_eq <;>
    simp only [highNibble, lowNibble, BitVec.extractLsb'_toNat, BitVec.toNat_ofNat, Nat.shiftRight_eq_div_pow] <;> omega

theorem setColumn_eq (x : Option Nat) (o : Controller) : o.setColumn x = { o with
    colHi := x.map fun col => highNibble (BitVec.ofNat 8 col)
    colLo := x.map fun col => lowNibble (BitVec.ofNat 8 col) } := by
  cases x with
  | none => rfl
  | some col => simp [Controller.setColumn, nibbles_of_column col]

/-- The cells a data byte leaves are those of the rules' cases. -/
theorem cellsAfter_eq (c : Config) (b : Byte) (o : Controller) : o.cellsAfter c b = o.vramAfter c b := by
  unfold Controller.cellsAfter Controller.vramAfter
  cases o.page with
  | none => rfl
  | some p =>
    cases o.column with
    | none =>
      by_cases hp : c.pages ≤ p.toNat
      · simp [hp, Nat.not_lt.2 hp]
      · simp [hp, Nat.lt_of_not_le hp, bne, decide_not]
        rfl
    | some col =>
      by_cases hp : c.pages ≤ p.toNat
      · simp [hp, Nat.not_lt.2 hp]
      · by_cases hc : c.columns ≤ col
        · simp [hp, hc, Nat.not_lt.2 hc]
        · simp [hp, hc, Nat.lt_of_not_le hp, Nat.lt_of_not_le hc]

/-- Reading a data byte by the rules' cases is what the step does with it. -/
theorem readData_eq (c : Config) (b : Byte) (o : Controller) : o.readData c b = o.dataByte c b := by
  by_cases hv : o.volPending = true
  · rw [dataByte_pending hv]
    exact if_pos hv
  · rw [dataByte_eq (Bool.eq_false_iff.2 hv), Controller.readData, if_neg hv, setColumn_eq, cellsAfter_eq]
    exact Eq.refl _

theorem readCommand_pulse (o : Controller) (b : Byte) : (o.readCommand b).pulse = o.pulse := by
  unfold Controller.readCommand
  simp only [apply_ite Controller.pulse]
  simp only [ite_self]

/-- A byte of a frame read with RST released: a command or a data byte, as DC says. -/
theorem readByte_frame {o : Controller} (hc : o.cs = some .on) (hp : o.pulse = .released) (hv : o.valid = true)
    (c : Config) (b : Byte) : o.readByte c b =
      match o.dc with
      | some .cmd => o.readCommand b
      | some .data => o.readData c b
      | none => o :=
  (if_neg fun h => h hc).trans ((if_neg fun h => h hp).trans (if_neg (by simp [hv])))

theorem after_wait_settle {o : Controller} (hp : o.pulse = .released) (c : Config) :
    o.after c (.wait .settle) = o :=
  if_neg fun h => by rw [hp] at h; cases h.1

/-- A command frame and its settle wait, read with RST released. -/
theorem after_wcEvents {o : Controller} (hv : o.valid = true) (hp : o.pulse = .released) (c : Config) (b : Byte) :
    o.afterAll c (wcEvents b) = (o.readCommand b).withLines (some .off) (some .cmd) := by
  have h : (o.withLines (some .on) (some .cmd)).readByte c b = (o.readCommand b).withLines (some .on) (some .cmd) := by
    rw [← readCommand_withLines]
    exact readByte_frame (o := o.withLines (some .on) (some .cmd)) rfl hp hv c b
  have e : o.afterAll c (wcEvents b)
      = (((o.withLines (some .on) (some .cmd)).readByte c b).after c (.cs .off)).after c (.wait .settle) := rfl
  rw [e, h]
  exact after_wait_settle (o := (o.readCommand b).withLines (some .off) (some .cmd))
    ((readCommand_pulse o b).trans hp) c

/-- A data frame, read with RST released. -/
theorem after_wdEvents {o : Controller} (hv : o.valid = true) (hp : o.pulse = .released) (c : Config) (b : Byte) :
    o.afterAll c (wdEvents b) = (o.dataByte c b).withLines (some .off) (some .data) := by
  have h : (o.withLines (some .on) (some .data)).readByte c b = (o.dataByte c b).withLines (some .on) (some .data) := by
    rw [← dataByte_withLines, ← readData_eq]
    exact readByte_frame (o := o.withLines (some .on) (some .data)) rfl hp hv c b
  have e : o.afterAll c (wdEvents b)
      = ((o.withLines (some .on) (some .data)).readByte c b).after c (.cs .off) := rfl
  rw [e, h]
  rfl

/-! Reset pulses -/

theorem afterAll_append (c : Config) (o : Controller) (xs ys : List Event) :
    o.afterAll c (xs ++ ys) = (o.afterAll c xs).afterAll c ys := List.foldl_append

theorem afterAll_concat (c : Config) (o : Controller) (evs : List Event) (ev : Event) :
    o.afterAll c (evs ++ [ev]) = (o.afterAll c evs).after c ev := afterAll_append c o evs [ev]

theorem readCommand_lines (o : Controller) (b : Byte) : (o.readCommand b).cs = o.cs := by
  unfold Controller.readCommand
  simp only [apply_ite Controller.cs, ite_self]

/-- Reading a byte moves no line of the observer. -/
theorem readByte_cs (c : Config) (b : Byte) (o : Controller) : (o.readByte c b).cs = o.cs := by
  unfold Controller.readByte
  split_ifs <;> try rfl
  split
  · exact readCommand_lines o b
  · rw [readData_eq]; exact (congrArg Controller.cs (dataByte_withLines o o.cs o.dc c b)).trans rfl
  · rfl

/-- Reading a byte changes the pulse only by spoiling it. -/
theorem readByte_pulse (c : Config) (b : Byte) (o : Controller) :
    (o.readByte c b).pulse = if o.cs = some .on ∧ o.pulse ≠ .released then .spoiled else o.pulse := by
  unfold Controller.readByte
  by_cases hc : o.cs = some .on
  · by_cases hp : o.pulse = .released
    · have hx : ¬ (o.cs = some .on ∧ o.pulse ≠ .released) := fun h => h.2 hp
      rw [if_neg (fun h => h hc), if_neg (fun h => h hp), if_neg hx]
      by_cases hv : o.valid = false
      · rw [if_pos hv]
      · rw [if_neg hv]
        split
        · exact readCommand_pulse o b
        · rw [readData_eq]; exact (dataByte_frame o c b).2.2.2.1
        · rfl
    · rw [if_neg (fun h => h hc), if_pos hp, if_pos ⟨hc, hp⟩]
  · rw [if_pos hc, if_neg (fun h : _ ∧ _ => hc h.1)]

theorem csAfter_concat (evs : List Event) (ev : Event) :
    csAfter (evs ++ [ev]) = match ev with | .cs y => some y | _ => csAfter evs := List.foldl_concat ..

/-- The observer's CS is the level the events last drove. -/
theorem afterAll_cs (c : Config) (evs : List Event) : (Controller.initial.afterAll c evs).cs = csAfter evs := by
  induction evs using List.reverseRecOn with
  | nil => rfl
  | append_singleton evs ev ih =>
    rw [afterAll_concat, csAfter_concat, ← ih]
    cases ev with
    | xfer b => exact readByte_cs c b _
    | rst x => cases x <;> simp only [Controller.after, apply_ite Controller.cs, ite_self]
    | wait d => simp only [Controller.after, apply_ite Controller.cs, ite_self]
    | _ => rfl

theorem pulseParts_rst_on (evs : List Event) : pulseParts (evs ++ [.rst .on]) evs [] :=
  ⟨rfl, by simp, by simp⟩

/-- One more event that drives no RST: the parts grow by it, unless it is a byte of a frame. -/
theorem pulseParts_concat {evs before inside : List Event} {ev : Event} (hev : ∀ x, ev ≠ .rst x) :
    pulseParts (evs ++ [ev]) before inside ↔
      ∃ rest, inside = rest ++ [ev] ∧ pulseParts evs before rest ∧ ∀ b, ev = .xfer b → csAfter evs ≠ some .on := by
  constructor
  · rintro ⟨he, hr, hf⟩
    rcases List.eq_nil_or_concat inside with rfl | ⟨rest, e, rfl⟩
    · have := List.append_inj_right' he rfl
      exact absurd (List.cons.inj this).1 (hev _)
    · rw [List.concat_eq_append] at he hr hf ⊢
      have he' : evs ++ [ev] = (before ++ .rst .on :: rest) ++ [e] := by simpa using he
      obtain ⟨rfl, h⟩ := List.append_inj' he' rfl
      obtain rfl := (List.cons.inj h).1
      refine ⟨rest, rfl, ⟨rfl, fun x h => hr x (List.mem_append_left _ h), fun b i j h => hf b i (j ++ [ev]) ?_⟩,
        fun b h => hf b rest [] (by rw [h])⟩
      rw [h]; simp
  · rintro ⟨rest, rfl, ⟨rfl, hr, hf⟩, hx⟩
    refine ⟨by simp, fun x h => ?_, fun b i j h => ?_⟩
    · rcases List.mem_append.1 h with h | h
      · exact hr x h
      · exact hev x (List.mem_singleton.1 h).symm
    · rcases List.eq_nil_or_concat j with rfl | ⟨j, e, rfl⟩
      · obtain ⟨rfl, hev⟩ := List.append_inj' h rfl
        exact hx b (List.cons.inj hev).1
      · rw [List.concat_eq_append] at h
        have h' : rest ++ [ev] = (i ++ .xfer b :: j) ++ [e] := by simpa using h
        exact hf b i j (List.append_inj' h' rfl).1

theorem not_pulseParts_rst_off (evs before inside : List Event) :
    ¬ pulseParts (evs ++ [.rst .off]) before inside := by
  rintro ⟨he, hr, -⟩
  rcases List.eq_nil_or_concat inside with rfl | ⟨rest, e, rfl⟩
  · exact absurd (List.append_inj_right' he rfl) (by simp)
  · rw [List.concat_eq_append] at he hr
    have he' : evs ++ [.rst .off] = (before ++ .rst .on :: rest) ++ [e] := by simpa using he
    obtain rfl := (List.cons.inj (List.append_inj_right' he' rfl)).1
    exact hr .off (by simp)

/-- After `rst(ON)` no wait has come. -/
theorem not_pulseHeld_rst_on (c : Config) (evs : List Event) : ¬ pulseHeld c (evs ++ [.rst .on]) := by
  rintro ⟨before, inside, ⟨he, hr, -⟩, d, hd, -⟩
  rcases List.eq_nil_or_concat inside with rfl | ⟨rest, e, rfl⟩
  · cases hd
  · rw [List.concat_eq_append] at he hr
    have he' : evs ++ [.rst .on] = (before ++ .rst .on :: rest) ++ [e] := by simpa using he
    obtain rfl := (List.cons.inj (List.append_inj_right' he' rfl)).1
    exact hr .on (by simp)

/-- One more event that drives no RST, for a pulse in progress. -/
theorem exists_pulseParts_concat {evs : List Event} {ev : Event} (hev : ∀ x, ev ≠ .rst x) :
    (∃ before inside, pulseParts (evs ++ [ev]) before inside) ↔
      (∃ before inside, pulseParts evs before inside) ∧ ∀ b, ev = .xfer b → csAfter evs ≠ some .on := by
  simp only [pulseParts_concat hev]
  exact ⟨fun ⟨before, _, rest, _, h, hx⟩ => ⟨⟨before, rest, h⟩, hx⟩,
    fun ⟨⟨before, rest, h⟩, hx⟩ => ⟨before, _, rest, rfl, h, hx⟩⟩

/-- One more event that drives no RST, for a held pulse. -/
theorem pulseHeld_concat (c : Config) {evs : List Event} {ev : Event} (hev : ∀ x, ev ≠ .rst x) :
    pulseHeld c (evs ++ [ev]) ↔
      (pulseHeld c evs ∨ (∃ before inside, pulseParts evs before inside) ∧ ∃ d, ev = .wait d ∧ coversReset c d = true)
        ∧ ∀ b, ev = .xfer b → csAfter evs ≠ some .on := by
  simp only [pulseHeld, pulseParts_concat hev]
  constructor
  · rintro ⟨before, _, ⟨rest, rfl, h, hx⟩, d, hd, hc⟩
    refine ⟨?_, hx⟩
    rcases List.mem_append.1 hd with hd | hd
    · exact .inl ⟨before, rest, h, d, hd, hc⟩
    · exact .inr ⟨⟨before, rest, h⟩, d, (List.mem_singleton.1 hd).symm, hc⟩
  · rintro ⟨⟨before, rest, h, d, hd, hc⟩ | ⟨⟨before, rest, h⟩, d, rfl, hc⟩, hx⟩
    · exact ⟨before, _, ⟨rest, rfl, h, hx⟩, d, List.mem_append_left _ hd, hc⟩
    · exact ⟨before, _, ⟨rest, rfl, h, hx⟩, d, by simp, hc⟩

/-- The observer's pulse is in progress and unspoiled exactly when the events part so, and held exactly when they hold
a long enough wait besides. -/
theorem afterAll_pulse (c : Config) (evs : List Event) :
    ((Controller.initial.afterAll c evs).pulse = .asserted ∨ (Controller.initial.afterAll c evs).pulse = .held ↔
        ∃ before inside, pulseParts evs before inside)
      ∧ ((Controller.initial.afterAll c evs).pulse = .held ↔ pulseHeld c evs) := by
  induction evs using List.reverseRecOn with
  | nil => simp [pulseHeld, pulseParts, Controller.afterAll, Controller.initial]
  | append_singleton evs ev ih =>
    obtain ⟨iho, ihh⟩ := ih
    have hcs := afterAll_cs c evs
    rw [afterAll_concat]
    generalize Controller.initial.afterAll c evs = o at iho ihh hcs
    cases ev with
    | rst x =>
      cases x with
      | on =>
        exact ⟨⟨fun _ => ⟨_, _, pulseParts_rst_on evs⟩, fun _ => .inl rfl⟩,
          ⟨fun h => by simp [Controller.after] at h, fun h => absurd h (not_pulseHeld_rst_on c evs)⟩⟩
      | off =>
        have hp : (o.after c (.rst .off)).pulse = .released := by
          simp only [Controller.after]; split_ifs <;> rfl
        rw [hp]
        exact ⟨⟨by simp, fun ⟨_, _, h⟩ => absurd h (not_pulseParts_rst_off evs _ _)⟩,
          ⟨by simp, fun ⟨_, _, h, _⟩ => absurd h (not_pulseParts_rst_off evs _ _)⟩⟩
    | xfer b =>
      rw [exists_pulseParts_concat (by simp), pulseHeld_concat c (by simp), ← iho, ← ihh, ← hcs]
      simp only [Controller.after, readByte_pulse]
      cases o.pulse <;> by_cases h : o.cs = some .on <;> simp [h]
    | wait d =>
      rw [exists_pulseParts_concat (by simp), pulseHeld_concat c (by simp), ← iho, ← ihh]
      simp only [Controller.after, apply_ite Controller.pulse]
      cases o.pulse <;> by_cases h : coversReset c d = true <;> simp [h]
    | _ =>
      rw [exists_pulseParts_concat (by simp), pulseHeld_concat c (by simp), ← iho, ← ihh]
      simp [Controller.after]

/-! Runs of command frames -/

/-- No command makes the observer VALID. -/
theorem readCommand_valid {o : Controller} {b : Byte} (h : (o.readCommand b).valid = true) : o.valid = true := by
  by_contra hv
  have : (o.readCommand b).valid = false := by
    unfold Controller.readCommand
    simp only [apply_ite Controller.valid, Bool.eq_false_iff.2 hv, ite_self]
  rw [this] at h; cases h

/-- A run of command frames, none of which loses the observer, read with RST released: the ordered readings one after
another. -/
theorem after_commands {bs : List Byte} {o : Controller} (hr : o.pulse = .released)
    (hv : (bs.foldl (fun o b => o.readCommand b) o).valid = true) (hb : bs ≠ []) (c : Config) :
    o.afterAll c (bs.flatMap commandWrite)
      = (bs.foldl (fun o b => o.readCommand b) o).withLines (some .off) (some .cmd) := by
  induction bs using List.reverseRecOn with
  | nil => exact absurd rfl hb
  | append_singleton bs b ih =>
    rw [List.foldl_append] at hv ⊢
    rw [List.flatMap_append, afterAll_append, List.flatMap_singleton]
    by_cases he : bs = []
    · subst he
      exact after_wcEvents (readCommand_valid hv) hr c b
    · have hv' := readCommand_valid hv
      have hp : (bs.foldl (fun o b => o.readCommand b) o).pulse = .released := by
        clear ih hv hv' hb he
        induction bs generalizing o with
        | nil => exact hr
        | cons b bs ih => exact ih ((readCommand_pulse o b).trans hr)
      rw [ih hv' he]
      refine (after_wcEvents (o := Controller.withLines (bs.foldl (fun o b => o.readCommand b) o) (some .off) (some .cmd))
        hv' hp c b).trans ?_
      rw [readCommand_withLines]; rfl

/-! Positioning the cursor -/

theorem readCommand_page {o : Controller} (hp : o.volPending = false) (p : Byte) :
    o.readCommand (0xB0 ||| (p &&& 0x0F)) = { o with page := some (lowNibble p) } := by
  have h1 : ∀ p : Byte, 0xB0 ||| (p &&& 0x0F) ≠ 0x81 := by decide
  have h2 : ∀ p : Byte, (0xB0 ||| (p &&& 0x0F)) &&& 0xF0 = 0xB0 := by decide
  have h3 : ∀ p : Byte, lowNibble (0xB0 ||| (p &&& 0x0F)) = lowNibble p := by decide
  rw [Controller.readCommand, if_neg (by simp [hp]), if_neg (h1 p), if_pos (h2 p), h3]

theorem readCommand_colHi {o : Controller} (hp : o.volPending = false) (c : Byte) :
    o.readCommand (0x10#8 ||| ((c >>> 4) &&& 0x0F)) = { o with colHi := some (highNibble c) } := by
  have h1 : ∀ c : Byte, 0x10#8 ||| ((c >>> 4) &&& 0x0F) ≠ 0x81 := by decide
  have h2 : ∀ c : Byte, (0x10#8 ||| ((c >>> 4) &&& 0x0F)) &&& 0xF0 = 0x10 := by decide
  have h3 : ∀ c : Byte, lowNibble (0x10#8 ||| ((c >>> 4) &&& 0x0F)) = highNibble c := by decide
  rw [Controller.readCommand, if_neg (by simp [hp]), if_neg (h1 c), if_neg (by rw [h2]; decide), if_pos (h2 c), h3]

theorem readCommand_colLo {o : Controller} (hp : o.volPending = false) (c : Byte) :
    o.readCommand (c &&& 0x0F) = { o with colLo := some (lowNibble c) } := by
  have h1 : ∀ c : Byte, c &&& 0x0F ≠ 0x81 := by decide
  have h2 : ∀ c : Byte, (c &&& 0x0F) &&& 0xF0 = 0x00 := by decide
  have h3 : ∀ c : Byte, lowNibble (c &&& 0x0F) = lowNibble c := by decide
  rw [Controller.readCommand, if_neg (by simp [hp]), if_neg (h1 c), if_neg (by rw [h2]; decide),
    if_neg (by rw [h2]; decide), if_pos (h2 c), h3]

/-- The three address commands set the three latches. -/
theorem after_cursorEvents {o : Controller} (hv : o.valid = true) (hp : o.volPending = false)
    (hr : o.pulse = .released) (c : Config) (p col : Byte) :
    o.afterAll c (cursorEvents p col) = { o with
      page := some (lowNibble p), colHi := some (highNibble col), colLo := some (lowNibble col)
      cs := some .off, dc := some .cmd } := by
  have e1 := after_wcEvents hv hr c (0xB0 ||| (p &&& 0x0F))
  rw [readCommand_page hp] at e1
  have e2 := after_wcEvents (o := { o with page := some (lowNibble p) }.withLines (some .off) (some .cmd)) hv hr c
    (0x10#8 ||| ((col >>> 4) &&& 0x0F))
  rw [readCommand_colHi (by exact hp)] at e2
  have e3 := after_wcEvents (o := { o with page := some (lowNibble p), colHi := some (highNibble col) }.withLines
    (some .off) (some .cmd)) hv hr c (col &&& 0x0F)
  rw [readCommand_colLo (by exact hp)] at e3
  rw [cursorEvents, afterAll_append, afterAll_append, e1]
  exact (congrArg (Controller.afterAll c · _) e2).trans e3

/-! The canonical form of the known cells -/

/-- A data byte keeps the known cells canonical. -/
theorem vramAfter_wf {c : Config} {o : Controller} (h : o.vramWf c = true) (b : Byte) :
    ({ o with vram := o.vramAfter c b } : Controller).vramWf c = true := by
  simp only [Controller.vramWf, Bool.and_eq_true, decide_eq_true_eq, List.all_eq_true] at h ⊢
  obtain ⟨hr, ha⟩ := h
  unfold Controller.vramAfter
  split
  · exact ⟨List.Pairwise.nil, fun x hx => by cases hx⟩
  · rename_i p col _ hcol
    split_ifs with h1 h2
    · refine ⟨cellPut_rising hr _ _, fun x hx => ?_⟩
      rcases mem_cellPut hx with rfl | hx
      · have hlt := column_lt hcol
        simp only [cellKey]
        omega
      · exact ha x hx
    · exact ⟨hr, ha⟩
    · exact ⟨List.Pairwise.nil, fun x hx => by cases hx⟩
  · split_ifs
    · exact ⟨cellFilter_rising hr _, fun x hx => ha x (List.mem_filter.1 hx).1⟩
    · exact ⟨List.Pairwise.nil, fun x hx => by cases hx⟩
    · exact ⟨hr, ha⟩
    · exact ⟨List.Pairwise.nil, fun x hx => by cases hx⟩

end Sys2Proof.Machine
end

