-- ==== Sys2Proof/Laws/PerInstr.lean ====
section
/-! SUPPORT. Per-instruction statements. EncodeLength: the encoding of an instruction has the length the opcode table
gives it, and no instruction is empty or longer than five bytes (spec 30 R61, R69). -/

namespace Sys2Proof.Laws.EncodeLength

/-- The encoding has the instruction's length, one to five bytes. -/
def Statement (i : Instr) : Prop := (encode i).length = i.len ∧ 1 ≤ i.len ∧ i.len ≤ 5

theorem initBus : Statement .initBus := ⟨rfl, by simp [Instr.len], by simp [Instr.len]⟩

theorem initDisplay : Statement .initDisplay := ⟨rfl, by simp [Instr.len], by simp [Instr.len]⟩

theorem setCursor (p c : Byte) : Statement (.setCursor p c) := ⟨rfl, by simp [Instr.len], by simp [Instr.len]⟩

theorem clearSurface : Statement .clearSurface := ⟨rfl, by simp [Instr.len], by simp [Instr.len]⟩

theorem renderChar (a : Byte) : Statement (.renderChar a) := ⟨rfl, by simp [Instr.len], by simp [Instr.len]⟩

theorem renderString (p c : Byte) (a : Addr) : Statement (.renderString p c a) := ⟨rfl, by simp [Instr.len], by simp [Instr.len]⟩

theorem writeCommand (b : Byte) : Statement (.writeCommand b) := ⟨rfl, by simp [Instr.len], by simp [Instr.len]⟩

theorem writeData (b : Byte) : Statement (.writeData b) := ⟨rfl, by simp [Instr.len], by simp [Instr.len]⟩

theorem adcSelect : Statement .adcSelect := ⟨rfl, by simp [Instr.len], by simp [Instr.len]⟩

theorem displayOff : Statement .displayOff := ⟨rfl, by simp [Instr.len], by simp [Instr.len]⟩

theorem comDirSelect : Statement .comDirSelect := ⟨rfl, by simp [Instr.len], by simp [Instr.len]⟩

theorem pageAddr (p : Nibble) : Statement (.pageAddr p) := ⟨rfl, by simp [Instr.len], by simp [Instr.len]⟩

theorem colAddrHi (h : Nibble) : Statement (.colAddrHi h) := ⟨rfl, by simp [Instr.len], by simp [Instr.len]⟩

theorem colAddrLo (l : Nibble) : Statement (.colAddrLo l) := ⟨rfl, by simp [Instr.len], by simp [Instr.len]⟩

theorem biasSelect : Statement .biasSelect := ⟨rfl, by simp [Instr.len], by simp [Instr.len]⟩

theorem powerCtrl : Statement .powerCtrl := ⟨rfl, by simp [Instr.len], by simp [Instr.len]⟩

theorem resRatio : Statement .resRatio := ⟨rfl, by simp [Instr.len], by simp [Instr.len]⟩

theorem displayOn : Statement .displayOn := ⟨rfl, by simp [Instr.len], by simp [Instr.len]⟩

theorem volumeMode : Statement .volumeMode := ⟨rfl, by simp [Instr.len], by simp [Instr.len]⟩

theorem volumeLevel (v : Byte) : Statement (.volumeLevel v) := ⟨rfl, by simp [Instr.len], by simp [Instr.len]⟩

theorem allPointsNormal : Statement .allPointsNormal := ⟨rfl, by simp [Instr.len], by simp [Instr.len]⟩

theorem initOrigin40 : Statement .initOrigin40 := ⟨rfl, by simp [Instr.len], by simp [Instr.len]⟩

theorem data (d : Byte) : Statement (.data d) := ⟨rfl, by simp [Instr.len], by simp [Instr.len]⟩

end Sys2Proof.Laws.EncodeLength
end

