-- ==== Sys2Proof/Laws/Step.lean ====
section
/-! SUPPORT. What a step can do, said once: either the controller reads one event, or the block makes a move, whose
events, lines, flags and registers `BlockMove` describes. Claims about every step follow from `step_cases`. -/

namespace Sys2Proof.Machine

/-! Shared operations -/

theorem accept_ready {s : State} (h : s.ready = true) (f : State → State) : s.accept false f = .next (f s) := by
  simp [State.accept, readyFault, h]

theorem accept_notReady {s : State} (h : s.ready = false) (f : State → State) :
    s.accept false f = .next (s.raiseFault 0x02) := by
  simp [State.accept, readyFault, h, codeBusNotInitialised]

theorem accept_initBus {s : State} (h : s.ready = false) (f : State → State) : s.accept true f = .next (f s) := by
  simp [State.accept, readyFault, h]

theorem accept_initBus_ready {s : State} (h : s.ready = true) (f : State → State) :
    s.accept true f = .next (s.raiseFault 0x03) := by
  simp [State.accept, readyFault, h, codeBusReinitialised]

/-! The requests, unfolded once -/

theorem exec_initBus (s : State) : exec .initBus s = s.accept true fun s =>
    State.respond respOk 1 { (s.emit (busSetup s.cfg)).clearSpiStatus with ready := true } := rfl

theorem exec_writeCommand (b : Byte) (s : State) : exec (.writeCommand b) s = s.accept false fun s =>
    ((s.latchByte b).emit (commandWrite b)).respond respOk 2 := rfl

theorem exec_writeData (b : Byte) (s : State) : exec (.writeData b) s = s.accept false fun s =>
    ((s.latchByte b).emit (dataWrite b)).respond respOk 2 := rfl

theorem exec_initDisplay (s : State) : exec .initDisplay s = s.accept false fun s =>
    (s.emit displaySetup).forgetInitIdx.respond respOk 1 := rfl

theorem exec_setCursor (p c : Byte) (s : State) : exec (.setCursor p c) s = s.accept false fun s =>
    if s.cfg.checkedMode && offSurfaceOperands s.cfg p c then (s.latchCursor p c).respond respOutOfRangeAddress 3
    else ((s.latchCursor p c).emit (cursorWrite p c)).respond respOk 3 := rfl

theorem exec_clearSurface (s : State) : exec .clearSurface s = s.accept false fun s =>
    (s.emit (surfaceSweep s.cfg)).forgetSweep.respond respOk 1 := rfl

theorem exec_renderChar (a : Byte) (s : State) : exec (.renderChar a) s = s.accept false fun s =>
    if s.cfg.checkedMode && unsupportedGlyph s.cfg a then (s.latchChar a).respond respUnsupportedGlyph 2
    else ((s.latchChar a).renderGlyph a).forgetGlyph.respond respOk 2 := rfl

theorem exec_renderString (p c : Byte) (a : Addr) (s : State) : exec (.renderString p c a) s = s.accept false fun s =>
    if s.cfg.checkedMode then { (s.latchCursor p c).latchAddr a with textPtr := a, seq := .busy (.scan 0 false) }
    else ((s.latchCursor p c).latchAddr a).startDrawing := rfl

/-- Every request but INIT_BUS makes the READY check first. -/
theorem exec_request_accept {i : Instr} (h : i.isRequest = true) (hb : i ≠ .initBus) (s : State) :
    ∃ f, exec i s = s.accept false f := by
  cases i with
  | initBus => exact absurd rfl hb
  | adcSelect | displayOff | comDirSelect | pageAddr | colAddrHi | colAddrLo | biasSelect | powerCtrl | resRatio
  | displayOn | volumeMode | volumeLevel | allPointsNormal | initOrigin40 | data => exact Bool.noConfusion h
  | initDisplay => exact ⟨_, exec_initDisplay s⟩
  | setCursor p c => exact ⟨_, exec_setCursor p c s⟩
  | clearSurface => exact ⟨_, exec_clearSurface s⟩
  | renderChar a => exact ⟨_, exec_renderChar a s⟩
  | renderString p c a => exact ⟨_, exec_renderString p c a s⟩
  | writeCommand b => exact ⟨_, exec_writeCommand b s⟩
  | writeData b => exact ⟨_, exec_writeData b s⟩

theorem respOk_legal : respOk ∈ ([0x00, 0x04, 0x05] : List Byte) := by decide

theorem respOutOfRangeAddress_legal : respOutOfRangeAddress ∈ ([0x00, 0x04, 0x05] : List Byte) := by decide

theorem respUnsupportedGlyph_legal : respUnsupportedGlyph ∈ ([0x00, 0x04, 0x05] : List Byte) := by decide

/-! The controller's commands -/

/-- An instruction the controller reads is a reading of the observer, and changes nothing else. -/
theorem exec_controller {i : Instr} (h : i.wellFormed .request = false) (s : State) :
    ∃ f : Controller → Controller, exec i s = .next (s.observe f) := by
  cases i with
  | initBus | initDisplay | setCursor | clearSurface | renderChar | renderString | writeCommand | writeData =>
    exact Bool.noConfusion h
  | pageAddr p => exact ⟨fun o => { o with page := some p }, rfl⟩
  | colAddrHi n => exact ⟨fun o => { o with colHi := some n }, rfl⟩
  | colAddrLo n => exact ⟨fun o => { o with colLo := some n }, rfl⟩
  | volumeMode => exact ⟨fun o => { o with volPending := true }, rfl⟩
  | volumeLevel v =>
    exact ⟨fun o => { o with regs := { o.regs with volume := some v }, volPending := false }, rfl⟩
  | data d => exact ⟨Controller.dataByte s.cfg d, rfl⟩
  | adcSelect => exact ⟨fun o => { o with regs := { o.regs with adc := some 0xA0 } }, rfl⟩
  | displayOff => exact ⟨fun o => { o with regs := { o.regs with display := some 0xAE } }, rfl⟩
  | comDirSelect => exact ⟨fun o => { o with regs := { o.regs with comDir := some 0xC8 } }, rfl⟩
  | biasSelect => exact ⟨fun o => { o with regs := { o.regs with bias := some 0xA3 } }, rfl⟩
  | powerCtrl => exact ⟨fun o => { o with regs := { o.regs with power := some 0x2F } }, rfl⟩
  | resRatio => exact ⟨fun o => { o with regs := { o.regs with ratio := some 0x26 } }, rfl⟩
  | displayOn => exact ⟨fun o => { o with regs := { o.regs with display := some 0xAF } }, rfl⟩
  | allPointsNormal => exact ⟨fun o => { o with regs := { o.regs with allPoints := some 0xA4 } }, rfl⟩
  | initOrigin40 => exact ⟨fun o => { o with regs := { o.regs with startLine := some 0x40 } }, rfl⟩

theorem decodeCommand_notRequest {b : Byte} {i : Instr} (h : decodeCommand b = .ok i) :
    i.wellFormed .request = false := by
  unfold decodeCommand at h
  split at h <;> cases h <;> rfl

/-- A byte decoded from a frame is no request. -/
theorem decode_frame_notRequest {ch : Channel} (hch : ch ≠ .request) {b : Byte} {i : Instr} {rest : List Byte}
    (h : decode ch [b] = .ok (i, rest)) : i.wellFormed .request = false := by
  match ch, hch with
  | .command true, _ => cases h; rfl
  | .data, _ => cases h; rfl
  | .command false, _ =>
    cases hd : decodeCommand b with
    | error e => simp [decode, Except.map, hd] at h
    | ok j =>
      simp only [decode, Except.map, hd, Except.ok.injEq, Prod.mk.injEq] at h
      exact h.1 ▸ decodeCommand_notRequest hd

theorem channel_ne_request {o : Controller} {ch : Channel} (h : o.channel = some ch) : ch ≠ .request := by
  unfold Controller.channel at h
  split at h
  · split at h <;> simp at h <;> subst h <;> simp
  · simp at h

/-- Reading a byte answers a next state that differs in the observer only. -/
theorem fetchByte_reads (b : Byte) (s : State) :
    (∃ o, fetchByte b s = .done (.next (s.setLcd o)))
    ∨ ∃ i, fetchByte b s = .instr i s ∧ i.wellFormed .request = false := by
  unfold fetchByte
  cases hc : s.lcd.channel with
  | none => exact .inl ⟨_, rfl⟩
  | some ch =>
    cases hd : decode ch [b] with
    | error e => exact .inl ⟨_, by simp only [hd, State.observe_eq]; rfl⟩
    | ok r => exact .inr ⟨r.1, by simp only [hd], decode_frame_notRequest (channel_ne_request hc) hd⟩

/-- When an event is unread, the step reads it: it answers a next state that differs in `seen` and the observer. -/
theorem step_event {s : State} {ev : Event} (h : s.trace[s.seen]? = some ev) :
    ∃ o, step s = .next (s.readEvent.setLcd o) := by
  have hf : fetch s = fetchEvent s.readEvent ev := by simp [fetch, h]
  rw [step, hf]
  cases ev with
  | xfer b =>
    rcases fetchByte_reads b s.readEvent with ⟨o, ho⟩ | ⟨i, hi, hw⟩
    · exact ⟨o, by simp only [fetchEvent, ho]⟩
    · obtain ⟨f, hx⟩ := exec_controller hw s.readEvent
      exact ⟨_, by simp only [fetchEvent, hi, hx, State.observe_eq]; rfl⟩
  | _ => exact ⟨_, rfl⟩

theorem unread_none {s : State} : s.trace[s.seen]? = none ↔ s.trace.length ≤ s.seen := List.getElem?_eq_none_iff

theorem step_busy {s : State} {job : StringJob} (h : s.trace.length ≤ s.seen) (hs : s.seq = .busy job) :
    step s = .next (s.continueString job) := by
  simp [step, fetch, unread_none.2 h, hs]

theorem step_halted {s : State} (h : s.trace.length ≤ s.seen) (hs : s.seq = .halted) :
    step s = .fault (.halted s.fault) := by
  simp [step, fetch, unread_none.2 h, hs]

theorem fetch_idle {s : State} (h : s.trace.length ≤ s.seen) (hs : s.seq = .idle) : fetch s = fetchRequest s := by
  simp [fetch, unread_none.2 h, hs]

theorem step_request {s : State} {i : Instr} {rest : List Byte} (h : s.trace.length ≤ s.seen) (hs : s.seq = .idle)
    (hd : decode .request (s.stream.drop s.rip) = .ok (i, rest)) : step s = exec i s := by
  simp [step, fetch_idle h hs, fetchRequest, hd]

/-- What the request decoder answers, by cases. -/
theorem decodeRequest_cases (bs : List Byte) :
    (bs = [] ∧ decodeRequest bs = .error .noByte)
    ∨ (∃ i rest, decodeRequest bs = .ok (i, rest) ∧ i.wellFormed .request = true
        ∧ bs.length = i.len + rest.length)
    ∨ (∃ op rest, bs = op :: rest ∧ decodeRequest bs = .error (.illegalRequest op)
        ∧ (op.toNat = 0 ∨ 9 ≤ op.toNat))
    ∨ (∃ op rest, bs = op :: rest ∧ decodeRequest bs = .error (.truncatedRequest op)
        ∧ (op.toNat = 3 ∧ rest.length < 2 ∨ op.toNat = 5 ∧ rest.length < 1 ∨ op.toNat = 6 ∧ rest.length < 4
          ∨ op.toNat = 7 ∧ rest.length < 1 ∨ op.toNat = 8 ∧ rest.length < 1)) := by
  fun_cases decodeRequest bs with
  | case1 => exact .inl ⟨rfl, rfl⟩
  | case2 | case3 | case4 | case6 | case7 | case9 | case11 | case13 =>
    exact .inr (.inl ⟨_, _, rfl, rfl, by simp only [Instr.len, List.length_cons]; omega⟩)
  | case5 op rest hop h =>
    refine .inr (.inr (.inr ⟨op, rest, rfl, rfl, .inl ⟨hop, ?_⟩⟩))
    match rest, h with
    | [], _ | [_], _ => simp
    | p :: c :: r, h => exact (h p c r rfl).elim
  | case8 op rest hop h =>
    refine .inr (.inr (.inr ⟨op, rest, rfl, rfl, .inr (.inl ⟨hop, ?_⟩)⟩))
    match rest, h with
    | [], _ => simp
    | p :: r, h => exact (h p r rfl).elim
  | case10 op rest hop h =>
    refine .inr (.inr (.inr ⟨op, rest, rfl, rfl, .inr (.inr (.inl ⟨hop, ?_⟩))⟩))
    match rest, h with
    | [], _ | [_], _ | [_, _], _ | [_, _, _], _ => simp
    | p :: c :: l :: u :: r, h => exact (h p c l u r rfl).elim
  | case12 op rest hop h =>
    refine .inr (.inr (.inr ⟨op, rest, rfl, rfl, .inr (.inr (.inr (.inl ⟨hop, ?_⟩)))⟩))
    match rest, h with
    | [], _ => simp
    | p :: r, h => exact (h p r rfl).elim
  | case14 op rest hop h =>
    refine .inr (.inr (.inr ⟨op, rest, rfl, rfl, .inr (.inr (.inr (.inr ⟨hop, ?_⟩)))⟩))
    match rest, h with
    | [], _ => simp
    | p :: r, h => exact (h p r rfl).elim
  | case15 op rest h1 h2 h3 h4 h5 h6 h7 h8 =>
    refine .inr (.inr (.inl ⟨op, rest, rfl, rfl, ?_⟩))
    by_contra hc
    have : op.toNat = 1 ∨ op.toNat = 2 ∨ op.toNat = 3 ∨ op.toNat = 4 ∨ op.toNat = 5 ∨ op.toNat = 6 ∨ op.toNat = 7
        ∨ op.toNat = 8 := by omega
    tauto

/-! The moves of the block -/

/-- What the lines keep under the events of a request: its wiring, and a rest state. -/
structure QuietEvents (evs : List Event) : Prop where
  framed : wellFramed evs = true
  dir : ∀ l : Lines, (evs.foldl Lines.drive l).dir = l.dir
  spi : ∀ l : Lines, (evs.foldl Lines.drive l).spi = l.spi
  cs : ∀ l : Lines, l.cs ≠ some .on → (evs.foldl Lines.drive l).cs ≠ some .on
  rst : ∀ l : Lines, l.rst ≠ some .on → (evs.foldl Lines.drive l).rst ≠ some .on

theorem QuietEvents.nil : QuietEvents [] := ⟨rfl, fun _ => rfl, fun _ => rfl, fun _ h => h, fun _ h => h⟩

theorem QuietEvents.append {xs ys : List Event} (hx : QuietEvents xs) (hy : QuietEvents ys) :
    QuietEvents (xs ++ ys) :=
  ⟨wellFramed_append hx.framed hy.framed, fun l => by rw [List.foldl_append, hy.dir, hx.dir],
    fun l => by rw [List.foldl_append, hy.spi, hx.spi],
    fun l h => by rw [List.foldl_append]; exact hy.cs _ (hx.cs l h),
    fun l h => by rw [List.foldl_append]; exact hy.rst _ (hx.rst l h)⟩

theorem QuietEvents.flatMap {α : Type} {f : α → List Event} (h : ∀ a, QuietEvents (f a)) (xs : List α) :
    QuietEvents (xs.flatMap f) := by
  induction xs with
  | nil => exact .nil
  | cons x rest ih => exact (h x).append ih

theorem QuietEvents.command (b : Byte) : QuietEvents (commandWrite b) :=
  ⟨rfl, fun _ => rfl, fun _ => rfl, fun _ _ h => by simp [commandWrite, frame, sendByte, Lines.drive] at h,
    fun _ h => h⟩

theorem QuietEvents.data (b : Byte) : QuietEvents (dataWrite b) :=
  ⟨rfl, fun _ => rfl, fun _ => rfl, fun _ _ h => by simp [dataWrite, frame, sendByte, Lines.drive] at h,
    fun _ h => h⟩

theorem QuietEvents.cursor (p c : Byte) : QuietEvents (cursorWrite p c) :=
  ((QuietEvents.command _).append (.command _)).append (.command _)

theorem QuietEvents.preamble : QuietEvents preamble :=
  ⟨rfl, fun _ => rfl, fun _ => rfl, fun _ h => h,
    fun _ _ h => by simp [Sys2Proof.Machine.preamble, Lines.drive] at h⟩

theorem QuietEvents.displaySetup : QuietEvents displaySetup :=
  (QuietEvents.preamble.append (.flatMap .command _)).append (.flatMap .data _)

theorem QuietEvents.glyph (c : Config) (d : Nat) (a : Byte) : QuietEvents (glyphWrite c d a) :=
  .flatMap .data _

theorem QuietEvents.sweep (c : Config) : QuietEvents (surfaceSweep c) :=
  .flatMap (fun _ => (QuietEvents.cursor _ _).append (.flatMap .data _)) _

/-- How a move of the block leaves SEQ, FAULT, RESP, the responses and RIP: a fatal fault, an ended request of `len`
bytes, or a RENDER_STRING in progress. -/
inductive BlockEnding (s t : State) : Prop where
  | fault (hseq : t.seq = .halted) (hcode : t.fault ∈ [0x01, 0x02, 0x03, 0x06]) (hresp : t.resp = s.resp)
      (hresps : t.responses = s.responses) (hrip : t.rip = s.rip)
  | respond (len : Nat) (hseq : t.seq = .idle) (hfault : t.fault = s.fault)
      (hcode : t.resp ∈ [0x00, 0x04, 0x05]) (hresps : t.responses = s.responses ++ [t.resp])
      (hrip : t.rip = s.rip + len)
  | busy (job : StringJob) (hseq : t.seq = .busy job) (hfault : t.fault = s.fault) (hresp : t.resp = s.resp)
      (hresps : t.responses = s.responses) (hrip : t.rip = s.rip)

/-- A move of the block that emits `evs`: what it keeps, how the lines follow, and how it ends. -/
structure BlockMove (s t : State) (evs : List Event) : Prop where
  cfg : t.cfg = s.cfg
  stream : t.stream = s.stream
  text : t.text = s.text
  seen : t.seen = s.seen
  lcd : t.lcd = s.lcd
  trace : t.trace = s.trace ++ evs
  lines : t.lines = evs.foldl Lines.drive s.lines
  wiring : QuietEvents evs ∧ t.ready = s.ready ∨ s.ready = false ∧ t.ready = true ∧ evs = busSetup s.cfg
  default : s.cfg.checkedMode = false → (∀ n u, s.seq ≠ .busy (.scan n u)) →
    (t.resp = 0x00 ∨ t.resp = s.resp) ∧ ∀ n u, t.seq ≠ .busy (.scan n u)
  ending : BlockEnding s t

/-- Entering a fault is a silent move. -/
theorem raiseFault_move (s : State) {code : Byte} (h : code ∈ [0x01, 0x02, 0x03, 0x06]) :
    BlockMove s (s.raiseFault code) [] :=
  ⟨rfl, rfl, rfl, rfl, rfl, by simp, rfl, .inl ⟨.nil, rfl⟩, fun _ _ => ⟨.inr rfl, by simp⟩,
    .fault rfl h rfl rfl rfl⟩

/-- Ending a request after emitting `evs` is a move. -/
theorem respond_move {s u : State} {evs : List Event} {code : Byte} (len : Nat) (hq : QuietEvents evs)
    (hcode : code ∈ [0x00, 0x04, 0x05]) (hdef : code = 0x00 ∨ s.cfg.checkedMode = true ∨ ∃ n v, s.seq = .busy (.scan n v))
    (hcfg : u.cfg = s.cfg) (hstream : u.stream = s.stream) (htext : u.text = s.text) (hseen : u.seen = s.seen)
    (hlcd : u.lcd = s.lcd) (htrace : u.trace = s.trace ++ evs) (hlines : u.lines = evs.foldl Lines.drive s.lines)
    (hready : u.ready = s.ready) (hfault : u.fault = s.fault) (hresps : u.responses = s.responses)
    (hrip : u.rip = s.rip) : BlockMove s (u.respond code len) evs := by
  refine ⟨hcfg, hstream, htext, hseen, hlcd, htrace, hlines, .inl ⟨hq, hready⟩, fun hc hn => ?_,
    .respond len rfl hfault hcode (congrArg (· ++ [code]) hresps) (congrArg (· + len) hrip)⟩
  rcases hdef with rfl | h | ⟨n, v, h⟩
  · exact ⟨.inl rfl, fun n u h => by cases h⟩
  · rw [hc] at h; cases h
  · exact absurd h (hn n v)

/-- A move that leaves a RENDER_STRING in progress. -/
theorem busy_move {s t : State} {evs : List Event} (job : StringJob) (hq : QuietEvents evs)
    (hdef : job = .draw ∨ s.cfg.checkedMode = true ∨ ∃ n v, s.seq = .busy (.scan n v)) (hseq : t.seq = .busy job)
    (hcfg : t.cfg = s.cfg) (hstream : t.stream = s.stream) (htext : t.text = s.text) (hseen : t.seen = s.seen)
    (hlcd : t.lcd = s.lcd) (htrace : t.trace = s.trace ++ evs) (hlines : t.lines = evs.foldl Lines.drive s.lines)
    (hready : t.ready = s.ready) (hfault : t.fault = s.fault) (hresp : t.resp = s.resp)
    (hresps : t.responses = s.responses) (hrip : t.rip = s.rip) : BlockMove s t evs := by
  refine ⟨hcfg, hstream, htext, hseen, hlcd, htrace, hlines, .inl ⟨hq, hready⟩, fun hc hn => ?_,
    .busy job hseq hfault hresp hresps hrip⟩
  rcases hdef with rfl | h | ⟨n, v, h⟩
  · exact ⟨.inr hresp, fun n u h => by rw [hseq] at h; cases h⟩
  · rw [hc] at h; cases h
  · exact absurd h (hn n v)

/-- Ending a sweep is a move, whatever the events are. -/
theorem sweep_move (s : State) (evs : List Event) (hq : QuietEvents evs) :
    BlockMove s ((s.emit evs).forgetSweep.respond respOk 1) evs :=
  respond_move (u := (s.emit evs).forgetSweep) 1 hq respOk_legal (.inl rfl) rfl rfl rfl rfl rfl rfl rfl rfl rfl rfl rfl

/-- Ending a display setup is a move, whatever the events are. -/
theorem setup_move (s : State) (evs : List Event) (hq : QuietEvents evs) :
    BlockMove s ((s.emit evs).forgetInitIdx.respond respOk 1) evs :=
  respond_move (u := (s.emit evs).forgetInitIdx) 1 hq respOk_legal (.inl rfl) rfl rfl rfl rfl rfl rfl rfl rfl rfl rfl
    rfl

/-- What a request does once its READY check has passed: it makes a move that ends after the request's own length,
or, for RENDER_STRING, leaves the string in progress. -/
theorem exec_request_ready {i : Instr} (h : i.isRequest = true) (hb : i ≠ .initBus) {s : State}
    (hr : s.ready = true) :
    ∃ t evs, exec i s = .next t ∧ BlockMove s t evs ∧ (t.rip = s.rip + i.len ∨ i.len = 5 ∧ t.rip = s.rip) := by
  cases i with
  | initBus => exact absurd rfl hb
  | adcSelect | displayOff | comDirSelect | pageAddr | colAddrHi | colAddrLo | biasSelect | powerCtrl | resRatio
  | displayOn | volumeMode | volumeLevel | allPointsNormal | initOrigin40 | data => exact Bool.noConfusion h
  | initDisplay =>
    have he : exec .initDisplay s = .next ((s.emit displaySetup).forgetInitIdx.respond respOk 1) := by
      rw [exec_initDisplay, accept_ready hr]
    exact ⟨_, _, he, setup_move s displaySetup QuietEvents.displaySetup,
      .inl (by simp only [State.respond_rip, State.forgetInitIdx_rip, State.emit_rip, Instr.len])⟩
  | writeCommand b =>
    exact ⟨_, _, (exec_writeCommand b s).trans (accept_ready hr _),
      respond_move 2 (.command b) respOk_legal (.inl rfl) rfl rfl rfl rfl rfl rfl rfl rfl rfl rfl rfl, .inl rfl⟩
  | writeData b =>
    exact ⟨_, _, (exec_writeData b s).trans (accept_ready hr _),
      respond_move 2 (.data b) respOk_legal (.inl rfl) rfl rfl rfl rfl rfl rfl rfl rfl rfl rfl rfl, .inl rfl⟩
  | clearSurface =>
    have he : exec .clearSurface s = .next ((s.emit (surfaceSweep s.cfg)).forgetSweep.respond respOk 1) := by
      rw [exec_clearSurface, accept_ready hr]
    exact ⟨_, _, he, sweep_move s _ (.sweep s.cfg),
      .inl (by simp only [State.respond_rip, State.forgetSweep_rip, State.emit_rip, Instr.len])⟩
  | setCursor p c =>
    cases hc : s.cfg.checkedMode && offSurfaceOperands s.cfg p c with
    | true =>
      exact ⟨_, _, (exec_setCursor p c s).trans ((accept_ready hr _).trans (by rw [if_pos hc])),
        respond_move (u := s.latchCursor p c) 3 .nil respOutOfRangeAddress_legal
          (.inr (.inl (Bool.and_eq_true_iff.1 hc).1)) rfl rfl rfl rfl rfl (List.append_nil _).symm rfl rfl rfl rfl rfl,
        .inl rfl⟩
    | false =>
      exact ⟨_, _, (exec_setCursor p c s).trans ((accept_ready hr _).trans (by rw [if_neg (by simp [hc])])),
        respond_move (u := (s.latchCursor p c).emit (cursorWrite p c)) 3 (.cursor p c) respOk_legal (.inl rfl)
          rfl rfl rfl rfl rfl rfl rfl rfl rfl rfl rfl,
        .inl rfl⟩
  | renderChar a =>
    cases hc : s.cfg.checkedMode && unsupportedGlyph s.cfg a with
    | true =>
      exact ⟨_, _, (exec_renderChar a s).trans ((accept_ready hr _).trans (by rw [if_pos hc])),
        respond_move (u := s.latchChar a) 2 .nil respUnsupportedGlyph_legal
          (.inr (.inl (Bool.and_eq_true_iff.1 hc).1)) rfl rfl rfl rfl rfl (List.append_nil _).symm rfl rfl rfl rfl rfl,
        .inl rfl⟩
    | false =>
      exact ⟨_, _, (exec_renderChar a s).trans ((accept_ready hr _).trans (by rw [if_neg (by simp [hc])])),
        respond_move (u := ((s.latchChar a).renderGlyph a).forgetGlyph) 2 (.glyph s.cfg s.draws a) respOk_legal
          (.inl rfl) rfl rfl rfl rfl rfl rfl rfl rfl rfl rfl rfl,
        .inl rfl⟩
  | renderString p c a =>
    have he := (exec_renderString p c a s).trans (accept_ready hr _)
    cases hc : s.cfg.checkedMode with
    | true =>
      refine ⟨_, [], he.trans (congrArg _ (if_pos hc)), ?_, .inr ⟨rfl, rfl⟩⟩
      exact busy_move (.scan 0 false) .nil (.inr (.inl hc)) rfl rfl rfl rfl rfl rfl (List.append_nil _).symm rfl rfl rfl
        rfl rfl rfl
    | false =>
      refine ⟨_, cursorWrite p c, he.trans (congrArg _ (if_neg (by simp [hc]))), ?_, .inr ⟨rfl, rfl⟩⟩
      exact busy_move .draw (.cursor p c) (.inl rfl) rfl rfl rfl rfl rfl rfl rfl rfl rfl rfl rfl rfl rfl

/-- INIT_BUS with READY = 0 is a move that sets READY. -/
theorem exec_initBus_move {s : State} (hr : s.ready = false) :
    ∃ t, exec .initBus s = .next t ∧ BlockMove s t (busSetup s.cfg) ∧ t.rip = s.rip + 1 ∧ t.seq = .idle :=
  ⟨_, (exec_initBus s).trans (accept_initBus hr _),
    ⟨rfl, rfl, rfl, rfl, rfl, rfl, rfl, .inr ⟨hr, rfl, rfl⟩, fun _ _ => ⟨.inl rfl, fun _ _ h => by cases h⟩,
      .respond 1 rfl rfl respOk_legal rfl rfl⟩,
    rfl, rfl⟩

/-- What a request does: its READY check failed, it enters the fault; else it makes a move that ends after its own
length, or, for RENDER_STRING, leaves the string in progress. -/
theorem exec_request {i : Instr} (h : i.isRequest = true) (s : State) :
    ∃ t evs, exec i s = .next t ∧ BlockMove s t evs
      ∧ (s.ready = false → i ≠ .initBus → t = s.raiseFault 0x02)
      ∧ (s.ready = true → i = .initBus → t = s.raiseFault 0x03)
      ∧ (t.rip = s.rip + i.len ∨ i.len = 5 ∧ t.rip = s.rip ∨ t.seq = .halted ∧ t.rip = s.rip) := by
  by_cases hb : i = .initBus
  · subst hb
    cases hr : s.ready with
    | true =>
      exact ⟨_, _, (exec_initBus s).trans (accept_initBus_ready hr _), raiseFault_move s (by decide),
        fun h => (by cases h), fun _ _ => rfl, .inr (.inr ⟨rfl, rfl⟩)⟩
    | false =>
      obtain ⟨t, he, hm, hrip, _⟩ := exec_initBus_move hr
      exact ⟨t, _, he, hm, fun _ h => absurd rfl h, fun h => (by cases h), .inl hrip⟩
  · cases hr : s.ready with
    | true =>
      obtain ⟨t, evs, he, hm, hrip⟩ := exec_request_ready h hb hr
      exact ⟨t, evs, he, hm, fun h => (by cases h), fun _ h => absurd h hb, by tauto⟩
    | false =>
      obtain ⟨f, hf⟩ := exec_request_accept h hb s
      exact ⟨_, _, hf.trans (accept_notReady hr f), raiseFault_move s (by decide), fun _ _ => rfl,
        fun h => (by cases h), .inr (.inr ⟨rfl, rfl⟩)⟩

/-- What a step of a RENDER_STRING in progress does: it ends the request, of five bytes, or goes on. -/
theorem continueString_move {s : State} {job : StringJob} (hjob : s.seq = .busy job) :
    ∃ evs, BlockMove s (s.continueString job) evs ∧ QuietEvents evs ∧ (s.continueString job).ready = s.ready
      ∧ ((s.continueString job).seq = .idle ∧ (s.continueString job).rip = s.rip + 5
        ∨ (∃ j, (s.continueString job).seq = .busy j) ∧ (s.continueString job).rip = s.rip) := by
  cases job with
  | draw =>
    simp only [State.continueString, State.drawNext]
    split_ifs with h
    · exact ⟨[], respond_move (u := s.forgetGlyph.forgetTextPtr) 5 .nil respOk_legal (.inl rfl) rfl rfl rfl rfl rfl
        (List.append_nil _).symm rfl rfl rfl rfl rfl, .nil, rfl, .inl ⟨rfl, rfl⟩⟩
    · exact ⟨_, busy_move .draw (.glyph s.cfg s.draws (s.text.read s.textPtr)) (.inl rfl) hjob rfl rfl rfl rfl rfl rfl
        rfl rfl rfl rfl rfl rfl, .glyph _ _ _, rfl, .inr ⟨⟨_, hjob⟩, rfl⟩⟩
  | scan n u =>
    simp only [State.continueString, State.scanNext]
    split_ifs with h h1 h2
    · exact ⟨[], respond_move (u := s.forgetTextPtr) 5 .nil respOutOfRangeAddress_legal (.inr (.inr ⟨n, u, hjob⟩))
        rfl rfl rfl rfl rfl (List.append_nil _).symm rfl rfl rfl rfl rfl, .nil, rfl, .inl ⟨rfl, rfl⟩⟩
    · exact ⟨[], respond_move (u := s.forgetTextPtr) 5 .nil respUnsupportedGlyph_legal (.inr (.inr ⟨n, u, hjob⟩))
        rfl rfl rfl rfl rfl (List.append_nil _).symm rfl rfl rfl rfl rfl, .nil, rfl, .inl ⟨rfl, rfl⟩⟩
    · exact ⟨_, busy_move .draw (.cursor s.opPage s.opCol) (.inl rfl) rfl rfl rfl rfl rfl rfl rfl rfl rfl rfl rfl rfl
        rfl, .cursor _ _, rfl, .inr ⟨⟨_, rfl⟩, rfl⟩⟩
    · exact ⟨[], busy_move _ .nil (.inr (.inr ⟨n, u, hjob⟩)) rfl rfl rfl rfl rfl rfl (List.append_nil _).symm rfl rfl
        rfl rfl rfl rfl, .nil, rfl, .inr ⟨⟨_, rfl⟩, rfl⟩⟩

/-- The cases of a step that answers a next state. -/
inductive StepCase (s t : State) : Prop where
  /-- the controller reads an event -/
  | event (ev : Event) (o : Controller) (hev : s.trace[s.seen]? = some ev) (ht : t = s.readEvent.setLcd o)
  /-- the decoder enters a fatal fault -/
  | fault (code : Byte) (hseen : s.trace.length ≤ s.seen) (hidle : s.seq = .idle)
      (hcode : code ∈ [0x01, 0x02, 0x03, 0x06]) (ht : t = s.raiseFault code)
  /-- a request runs -/
  | request (i : Instr) (rest : List Byte) (hseen : s.trace.length ≤ s.seen) (hidle : s.seq = .idle)
      (hdecode : decode .request (s.stream.drop s.rip) = .ok (i, rest)) (hreq : i.isRequest = true)
      (hlen : (s.stream.drop s.rip).length = i.len + rest.length) (hexec : exec i s = .next t)
  /-- a RENDER_STRING goes on -/
  | string (job : StringJob) (hseen : s.trace.length ≤ s.seen) (hbusy : s.seq = .busy job)
      (ht : t = s.continueString job)

theorem truncatedFault_eq (op : Byte) (s : State) :
    ∃ code ∈ ([0x01, 0x02, 0x03, 0x06] : List Byte), truncatedFault op s = s.raiseFault code := by
  unfold truncatedFault readyFault
  split
  · exact ⟨0x03, by decide, rfl⟩
  · exact ⟨0x02, by decide, rfl⟩
  · exact ⟨0x06, by decide, rfl⟩

/-- Every step that answers a next state is one of the four cases. -/
theorem step_cases {s t : State} (h : step s = .next t) : StepCase s t := by
  cases hev : s.trace[s.seen]? with
  | some ev =>
    obtain ⟨o, ho⟩ := step_event hev
    rw [ho, Host.Outcome.next.injEq] at h
    exact .event ev o hev h.symm
  | none =>
    have hseen := unread_none.1 hev
    cases hseq : s.seq with
    | halted => rw [step_halted hseen hseq] at h; cases h
    | busy job =>
      rw [step_busy hseen hseq, Host.Outcome.next.injEq] at h
      exact .string job hseen hseq h.symm
    | idle =>
      have hstep : step s = match fetchRequest s with | .instr i s' => exec i s' | .done o => o := by
        rw [step, fetch_idle hseen hseq]
        all_goals rfl
      rw [hstep, fetchRequest] at h
      rcases decodeRequest_cases (s.stream.drop s.rip) with ⟨_, hd⟩ | ⟨i, rest, hd, hw, hl⟩ | ⟨op, rest, _, hd, _⟩ |
        ⟨op, rest, _, hd, _⟩
      · simp [decode, hd] at h
      · simp only [decode, hd] at h
        exact .request i rest hseen hseq hd hw hl h
      · simp only [decode, hd, Host.Outcome.next.injEq] at h
        exact .fault 0x01 hseen hseq (by decide) h.symm
      · simp only [decode, hd, Host.Outcome.next.injEq] at h
        obtain ⟨code, hc, ht⟩ := truncatedFault_eq op s
        exact .fault code hseen hseq hc (h.symm.trans ht)

end Sys2Proof.Machine
end

