-- ==== Sys2Proof/Laws/Run.lean ====
section
/-! SUPPORT. Runs of many steps: that runs compose, and that the controller comes to have read every event. -/

namespace Sys2Proof.Machine

theorem run_zero (s : State) : Sys2Proof.core.run 0 s = .next s := rfl

/-- One more step first. -/
theorem run_step (k : Nat) (s : State) : Sys2Proof.core.run (k + 1) s =
    match step s with
    | .next t => Sys2Proof.core.run k t
    | .fault f => .fault f
    | .refused r => .refused r := by
  refine (Host.Core.run.eq_2 Sys2Proof.core s k).trans ?_
  have hcore : Sys2Proof.core.step s = step s := rfl
  rw [hcore]
  cases step s <;> rfl

theorem run_succ {s t : State} (h : step s = .next t) (k : Nat) :
    Sys2Proof.core.run (k + 1) s = Sys2Proof.core.run k t := by
  rw [run_step, h]

theorem run_one {s t : State} (h : step s = .next t) : Sys2Proof.core.run 1 s = .next t := run_succ h 0

/-- Runs compose. -/
theorem run_append {s t : State} {j : Nat} (h : Sys2Proof.core.run j s = .next t) (k : Nat) :
    Sys2Proof.core.run (j + k) s = Sys2Proof.core.run k t := by
  induction j generalizing s with
  | zero => rw [Nat.zero_add]; injection h with h; rw [h]
  | succ j ih =>
    rw [run_step] at h
    rw [Nat.add_right_comm, run_step]
    cases hs : step s with
    | next u => rw [hs] at h; exact ih h
    | fault f => rw [hs] at h; cases h
    | refused r => rw [hs] at h; cases h

/-- The controller reads every unread event, one a step, and only `seen` and the observer change. -/
theorem run_drain (n : Nat) {s : State} (h : s.trace.length = s.seen + n) :
    ∃ o, Sys2Proof.core.run n s = .next { s with seen := s.trace.length, lcd := o } := by
  induction n generalizing s with
  | zero => exact ⟨s.lcd, by rw [run_zero, h]; rfl⟩
  | succ n ih =>
    obtain ⟨o, ho⟩ := step_event (s := s) (List.getElem?_eq_getElem (by omega))
    obtain ⟨o', ho'⟩ := ih (s := s.readEvent.setLcd o) (by simp; omega)
    exact ⟨o', (run_succ ho n).trans ho'⟩

end Sys2Proof.Machine
end

