-- ==== Sys2Proof/Machine/Assembler.lean ====
section
/-! DEFINITION. The assembler syntax of spec 30 R75: one request or TEXT directive a line, giving the request stream
and the TEXT memory image. It is the spec's notation for programs; no step of the machine uses it. -/

namespace Sys2Proof.Machine

/-- A token of a line. Commas and blanks separate, `;` starts a comment. -/
inductive AsmToken where
  | word (w : List Char)
  | chr (c : Char)
  | text (t : List Char)
  deriving DecidableEq, Repr

/-- One thing a line states. A RENDER_STRING may name its address by a label in TEXT memory. -/
inductive AsmItem where
  | request (i : Instr)
  | stringAt (page column : Byte) (label : List Char)
  | textOrg (a : Addr)
  | label (l : List Char)
  | asciz (bytes : List Byte)
  deriving DecidableEq, Repr

/-- The word read so far, as a token. -/
def asmFlush (word : List Char) : List AsmToken := if word = [] then [] else [.word word.reverse]

/-- The tokens of a line: `word` is the word read so far, reversed, and `quoted` the string literal, if inside one. -/
def asmLex : List Char → List Char → Option (List Char) → List AsmToken
  | [], word, none => asmFlush word
  | [], _, some t => [.text t.reverse]
  | c :: rest, word, some t =>
    if c = '"' then .text t.reverse :: asmLex rest word none else asmLex rest word (some (c :: t))
  | '\'' :: c :: '\'' :: rest, word, none => asmFlush word ++ .chr c :: asmLex rest [] none
  | c :: rest, word, none =>
    if c = ';' then asmFlush word
    else if c = '"' then asmFlush word ++ asmLex rest [] (some [])
    else if c = ' ' ∨ c = ',' ∨ c = '\t' then asmFlush word ++ asmLex rest [] none
    else asmLex rest (c :: word) none

/-- A digit below the base. -/
def asmDigit (base : Nat) (c : Char) : Option Nat :=
  let d :=
    if '0' ≤ c ∧ c ≤ '9' then c.toNat - '0'.toNat
    else if 'a' ≤ c ∧ c ≤ 'f' then c.toNat - 'a'.toNat + 10
    else if 'A' ≤ c ∧ c ≤ 'F' then c.toNat - 'A'.toNat + 10
    else base
  if d < base then some d else none

/-- The digits of a number in a base. -/
def asmDigits (base : Nat) (cs : List Char) : Option Nat :=
  if cs = [] then none
  else cs.foldl (fun acc c => acc.bind fun n => (asmDigit base c).map fun d => n * base + d) (some 0)

/-- A number, decimal or hexadecimal with `0x`, or the code of a character literal. -/
def asmNumber : AsmToken → Option Nat
  | .word ('0' :: 'x' :: cs) => asmDigits 16 cs
  | .word cs => asmDigits 10 cs
  | .chr c => some c.toNat
  | .text _ => none

/-- An operand that fits `bits` bits. -/
def asmOperand (bits : Nat) (t : AsmToken) : Option (BitVec bits) :=
  (asmNumber t).bind fun n => if n < 2 ^ bits then some (BitVec.ofNat bits n) else none

/-- The request or directive of a line after its label. -/
def asmBody : List AsmToken → Option (List AsmItem)
  | [] => some []
  | [.word m] =>
    if m = "INIT_BUS".toList then some [.request .initBus]
    else if m = "INIT_DISPLAY".toList then some [.request .initDisplay]
    else if m = "CLEAR_SURFACE".toList then some [.request .clearSurface]
    else none
  | [.word m, x] =>
    if m = "RENDER_CHAR".toList then (asmOperand 8 x).map fun a => [.request (.renderChar a)]
    else if m = "WRITE_COMMAND".toList then (asmOperand 8 x).map fun b => [.request (.writeCommand b)]
    else if m = "WRITE_DATA".toList then (asmOperand 8 x).map fun b => [.request (.writeData b)]
    else if m = ".text_org".toList then (asmOperand 16 x).map fun a => [.textOrg a]
    else if m = ".asciz".toList then
      match x with
      | .text t => some [.asciz (t.map fun c => BitVec.ofNat 8 c.toNat)]
      | .word _ | .chr _ => none
    else none
  | [.word m, x, y] =>
    if m = "SET_CURSOR".toList then
      (asmOperand 8 x).bind fun p => (asmOperand 8 y).map fun c => [.request (.setCursor p c)]
    else none
  | [.word m, x, y, z] =>
    if m = "RENDER_STRING".toList then
      (asmOperand 8 x).bind fun p => (asmOperand 8 y).bind fun c =>
        match asmOperand 16 z, z with
        | some a, _ => some [.request (.renderString p c a)]
        | none, .word l => some [.stringAt p c l]
        | none, _ => none
    else none
  | _ => none

/-- A line: an optional label, then a request or directive. -/
def asmLine (line : List Char) : Option (List AsmItem) :=
  match asmLex line [] none with
  | .word w :: rest =>
    if w.getLast? = some ':' then (asmBody rest).map fun items => .label w.dropLast :: items
    else asmBody (.word w :: rest)
  | ts => asmBody ts

/-- The TEXT address of each label, from the TEXT location counter. -/
def asmLabels : Addr → List AsmItem → List (List Char × Addr)
  | _, [] => []
  | _, .textOrg a :: rest => asmLabels a rest
  | loc, .label l :: rest => (l, loc) :: asmLabels loc rest
  | loc, .asciz bytes :: rest => asmLabels (loc + BitVec.ofNat 16 (bytes.length + 1)) rest
  | loc, .request _ :: rest | loc, .stringAt _ _ _ :: rest => asmLabels loc rest

/-- Bytes placed from an address on, wrapping modulo 2^16. -/
def asmPlace : Addr → List Byte → Memory → Memory
  | _, [], m => m
  | a, b :: rest, m => asmPlace (a + 1) rest (m.write a b)

/-- The request bytes and the TEXT image of the items. -/
def asmEmit (labels : List (List Char × Addr)) : Addr → List AsmItem → Memory → Option (List Byte × Memory)
  | _, [], m => some ([], m)
  | _, .textOrg a :: rest, m => asmEmit labels a rest m
  | loc, .label _ :: rest, m => asmEmit labels loc rest m
  | loc, .asciz bytes :: rest, m =>
    asmEmit labels (loc + BitVec.ofNat 16 (bytes.length + 1)) rest (asmPlace loc (bytes ++ [terminator]) m)
  | loc, .request i :: rest, m => (asmEmit labels loc rest m).map fun r => (encode i ++ r.1, r.2)
  | loc, .stringAt p c l :: rest, m =>
    (labels.lookup l).bind fun a =>
      (asmEmit labels loc rest m).map fun r => (encode (.renderString p c a) ++ r.1, r.2)

/-- Assemble the lines of a program: its request stream and its TEXT image (30 R75). DESIGN CHOICE: the TEXT location
counter is 0x0000 before any `.text_org`, so a label or `.asciz` that comes before one is placed there (log entry 25). -/
def assemble (lines : List (List Char)) : Option (List Byte × Memory) :=
  (lines.mapM asmLine).bind fun items => asmEmit (asmLabels 0 items.flatten) 0 items.flatten []

end Sys2Proof.Machine
end

