-- ==== Sys2Proof/Tests/Slice0.lean ====
section
/-! SUPPORT. Tests on small states, their expected results taken from spec 95 and the tables of 30 and 44, and one
witness for the hypotheses of each obligation that has some. -/

namespace Sys2Proof.Tests

open Sys2Proof Sys2Proof.Machine

/-! ## The fixture -/

/-- The fixture glyph table of 95 section 0. -/
def fixtureRom : List (List Byte) := (List.range 96).map fun i =>
  if i = 0x21 then [0x7E, 0x11, 0x11, 0x11, 0x7E, 0x00]
  else if i = 0x22 then [0x7F, 0x49, 0x49, 0x49, 0x36, 0x00]
  else if i = 0x28 then [0x7F, 0x08, 0x08, 0x08, 0x7F, 0x00]
  else if i = 0x29 then [0x00, 0x41, 0x7F, 0x41, 0x00, 0x00]
  else [0x00, 0x00, 0x00, 0x00, 0x00, 0x00]

/-- The parameters of 95 section 0, off-surface writes isolated. -/
def fixture : Config where
  pages := 8
  columns := 128
  glyphWidth := 6
  glyphCount := 96
  glyphRom := fixtureRom
  glyphTopBit := 0
  tSettle := 25
  tPower := 10000
  tReset := 10000
  checkedMode := false
  spiMode := ⟨false, false⟩
  spiClk := 1000000
  csActiveLevel := false
  dcCmdLevel := false
  rstActiveLevel := false
  offSurfaceIsolated := true

/-- The fixture in the checked mode. -/
def checkedFixture : Config := { fixture with checkedMode := true }

/-- A surface of two pages of two columns, one glyph of one byte. -/
def tiny : Config :=
  { fixture with pages := 2, columns := 2, glyphWidth := 1, glyphCount := 1, glyphRom := [[0x5A]] }

/-- After INIT_BUS: READY, and the stream and TEXT given. -/
def ready (c : Config) (stream : List Byte) (text : Memory) : State :=
  { State.start c stream text with
    ready := true
    lines := { Lines.reset with
      dir := .output, spi := { master := some true, mode := some c.spiMode, order := some .msbFirst } } }

/-- The observer of 95 after V-42-5. -/
def observer : Controller where
  valid := true
  page := some 0
  colHi := some 0
  colLo := some 5
  vram := [(0, 0xFF), (1, 0xFF), (2, 0xFF), (3, 0xFF), (4, 0xFF)]
  regs := {
    adc := some 0xA0, display := some 0xAF, comDir := some 0xC8, bias := some 0xA3, power := some 0x2F
    ratio := some 0x26, volume := some 0x07, allPoints := some 0xA4, startLine := some 0x40 }
  volPending := false
  cs := some .off
  dc := some .data
  pulse := .released

/-- The machine with that observer. -/
def drawn (c : Config) : State := { ready c [] [] with lcd := observer }

/-- The machine about to read the byte `b` of a frame. -/
def inFrame (m : Mode) (b : Byte) (o : Controller) : State :=
  { ready fixture [] [] with trace := [.xfer b], lcd := { o with cs := some .on, dc := some m } }

/-- The next state, if there is one. -/
def nextOf : Host.Outcome State Fault Refusal → Option State
  | .next t => some t
  | .fault _ | .refused _ => none

/-- The stop, if there is one. -/
def stopOf : Host.Outcome State Fault Refusal → Option (Fault ⊕ Refusal)
  | .next _ => none
  | .fault f => some (.inl f)
  | .refused r => some (.inr r)

theorem nextOf_exists {o : Host.Outcome State Fault Refusal} (h : (nextOf o).isSome = true) : ∃ t, o = .next t := by
  cases o with
  | next t => exact ⟨t, rfl⟩
  | fault f => exact Bool.noConfusion h
  | refused r => exact Bool.noConfusion h

/-! ## Well-formed terms, and an ill-formed term for each check -/

theorem test_wf_instr : Instr.wellFormed .request (.renderString 0xFF 0xFF 0xFFFF) = true
    ∧ Instr.wellFormed (.command false) .displayOn = true
    ∧ Instr.wellFormed (.command true) (.volumeLevel 0xB0) = true
    ∧ Instr.wellFormed .data (.data 0x00) = true := by decide

theorem test_wf_instr_refuses : Instr.wellFormed .request .displayOn = false
    ∧ Instr.wellFormed .request (.data 0x00) = false
    ∧ Instr.wellFormed (.command false) .initBus = false
    ∧ Instr.wellFormed (.command false) (.volumeLevel 0x07) = false
    ∧ Instr.wellFormed (.command false) (.data 0x07) = false
    ∧ Instr.wellFormed (.command true) (.colAddrLo 7) = false
    ∧ Instr.wellFormed .data .clearSurface = false := by decide

theorem test_wf_config : fixture.wf = true ∧ tiny.wf = true := by decide

theorem test_wf_config_refuses : ({ tiny with pages := 0 } : Config).wf = false
    ∧ ({ tiny with pages := 16 } : Config).wf = false
    ∧ ({ tiny with glyphWidth := 0, glyphRom := [[]] } : Config).wf = false
    ∧ ({ tiny with glyphWidth := 3, glyphRom := [[0, 0, 0]] } : Config).wf = false
    ∧ ({ tiny with columns := 257 } : Config).wf = false
    ∧ ({ tiny with glyphCount := 0, glyphRom := [] } : Config).wf = false
    ∧ ({ tiny with glyphCount := 257, glyphRom := List.replicate 257 [0] } : Config).wf = false
    ∧ ({ tiny with glyphCount := 2 } : Config).wf = false
    ∧ ({ tiny with glyphRom := [[0, 0]] } : Config).wf = false := by decide

theorem test_wf_memory : Memory.wf [(0, 0x41), (65535, 0x42)] = true := by decide

theorem test_wf_memory_refuses : Memory.wf [(1, 0x41), (0, 0x42)] = false
    ∧ Memory.wf [(1, 0x41), (1, 0x42)] = false
    ∧ Memory.wf [(65536, 0x41)] = false
    ∧ Memory.wf [(1, 0x00)] = false := by decide

theorem test_wf_vram : observer.vramWf fixture = true := by decide

theorem test_wf_vram_refuses : ({ observer with vram := [(1, 0), (0, 0)] } : Controller).vramWf fixture = false
    ∧ ({ observer with vram := [(2048, 0)] } : Controller).vramWf fixture = false
    ∧ ({ observer with vram := [(128, 0)] } : Controller).vramWf fixture = false := by decide

theorem test_wf_trace : wellFramed (displaySetup ++ dataWrite 0x41 ++ busSetup fixture) = true := by decide

theorem test_wf_trace_refuses : wellFramed [.dc .cmd, .cs .on, .xfer 0xAF, .cs .off] = false
    ∧ wellFramed [.dc .data, .cs .on, .xfer 0x01, .xfer 0x02, .cs .off] = false
    ∧ wellFramed [.xfer 0x01] = false := by decide

/-! ## Decoding: words written out bit by bit from 30 R61, R70 and 44 R130 to R143 -/

theorem test_decode_initBus : decode .request [0b00000001#8] = .ok (.initBus, []) := rfl
theorem test_decode_initDisplay : decode .request [0b00000010#8] = .ok (.initDisplay, []) := rfl
theorem test_decode_setCursor :
    decode .request [0b00000011#8, 0b10000001#8, 0b01111010#8, 0x04] = .ok (.setCursor 0x81 0x7A, [0x04]) := rfl
theorem test_decode_clearSurface : decode .request [0b00000100#8] = .ok (.clearSurface, []) := rfl
theorem test_decode_renderChar : decode .request [0b00000101#8, 0b01000001#8] = .ok (.renderChar 0x41, []) := rfl
theorem test_decode_renderString :
    decode .request [0b00000110#8, 0b00000010#8, 0b00001010#8, 0b11001101#8, 0b10101011#8]
      = .ok (.renderString 2 10 0xABCD, []) := rfl
theorem test_decode_writeCommand : decode .request [0b00000111#8, 0b11100011#8] = .ok (.writeCommand 0xE3, []) := rfl
theorem test_decode_writeData : decode .request [0b00001000#8, 0b00111100#8] = .ok (.writeData 0x3C, []) := rfl
theorem test_decode_adcSelect : decode (.command false) [0b10100000#8] = .ok (.adcSelect, []) := rfl
theorem test_decode_displayOff : decode (.command false) [0b10101110#8] = .ok (.displayOff, []) := rfl
theorem test_decode_comDirSelect : decode (.command false) [0b11001000#8] = .ok (.comDirSelect, []) := rfl
theorem test_decode_pageAddr : decode (.command false) [0b10111010#8] = .ok (.pageAddr 0b1010#4, []) := rfl
theorem test_decode_colAddrHi : decode (.command false) [0b00010110#8] = .ok (.colAddrHi 0b0110#4, []) := rfl
theorem test_decode_colAddrLo : decode (.command false) [0b00000100#8] = .ok (.colAddrLo 0b0100#4, []) := rfl
theorem test_decode_biasSelect : decode (.command false) [0b10100011#8] = .ok (.biasSelect, []) := rfl
theorem test_decode_powerCtrl : decode (.command false) [0b00101111#8] = .ok (.powerCtrl, []) := rfl
theorem test_decode_resRatio : decode (.command false) [0b00100110#8] = .ok (.resRatio, []) := rfl
theorem test_decode_displayOn : decode (.command false) [0b10101111#8] = .ok (.displayOn, []) := rfl
theorem test_decode_volumeMode : decode (.command false) [0b10000001#8] = .ok (.volumeMode, []) := rfl
theorem test_decode_volumeLevel : decode (.command true) [0b10000001#8] = .ok (.volumeLevel 0x81, []) := rfl
theorem test_decode_allPointsNormal : decode (.command false) [0b10100100#8] = .ok (.allPointsNormal, []) := rfl
theorem test_decode_initOrigin40 : decode (.command false) [0b01000000#8] = .ok (.initOrigin40, []) := rfl
theorem test_decode_data : decode .data [0b01111110#8] = .ok (.data 0x7E, []) := rfl

/-- Reserved and cut-off words are refused by name (30 R68, R69; 44 R144). -/
theorem test_decode_refuses : decode .request [0x00] = .error (.illegalRequest 0x00)
    ∧ decode .request [0x09] = .error (.illegalRequest 0x09)
    ∧ decode .request [0xFF] = .error (.illegalRequest 0xFF)
    ∧ decode .request [0x06, 0, 0, 0] = .error (.truncatedRequest 0x06)
    ∧ decode .request [] = .error .noByte
    ∧ decode (.command false) [0xA5] = .error (.unknownCommand 0xA5)
    ∧ decode (.command false) [0xE3] = .error (.unknownCommand 0xE3) := ⟨rfl, rfl, rfl, rfl, rfl, rfl, rfl⟩

/-- The encoder writes those words back. -/
theorem test_encode : encode (.setCursor 0x81 0x7A) = [0b00000011#8, 0b10000001#8, 0b01111010#8]
    ∧ encode (.renderString 2 10 0xABCD)
      = [0b00000110#8, 0b00000010#8, 0b00001010#8, 0b11001101#8, 0b10101011#8]
    ∧ encode (.pageAddr 10) = [0b10111010#8]
    ∧ encode (.colAddrHi 6) = [0b00010110#8]
    ∧ encode (.colAddrLo 4) = [0b00000100#8] := by decide

/-- Table words: bit 0 is the least significant bit of the first byte. -/
theorem test_tableWord : decodeTableWord 40 0xABCD0A0206 = some (.renderString 2 10 0xABCD)
    ∧ decodeTableWord 8 0x06 = some (.renderString 0 0 0)
    ∧ decodeTableWord 8 0xA0 = some .adcSelect
    ∧ decodeTableWord 8 0xB7 = some (.pageAddr 7)
    ∧ decodeTableWord 8 0xA5 = none := by decide

/-- A placed table word is the next instruction run, from reset: INIT_BUS, WRITE_DATA 0x3C, and ADC_SELECT, which the
controller reads and, not being VALID, ignores. -/
theorem test_placed :
    ((nextOf (step (State.reset.withFetchWord 8 0x01))).map fun t => (t.ready, t.rip)) = some (true, 1)
    ∧ ((nextOf (step (State.reset.withFetchWord 16 0x3C08))).map fun t => t.trace)
      = some [.dc .data, .cs .on, .xfer 0x3C, .cs .off]
    ∧ ((nextOf (step (State.reset.withFetchWord 8 0xA0))).map fun t => (t.seen, t.lcd.valid)) = some (1, false) := by
  decide

/-! ## Requests -/

/-- V-41-1. -/
theorem test_initBus : ((nextOf (step (State.start fixture [0x01] []))).map fun t =>
      (t.trace, t.ready, t.lines.dir, t.lines.cs, t.rip))
    = some ([.cfgDir, .cfgSpi ⟨false, false⟩, .clrStatus], true, .output, none, 1) := by decide

/-- V-41-2: the second INIT_BUS. -/
theorem test_initBus_again : ((nextOf (step (ready fixture [0x01] []))).map fun t => (t.fault, t.seq, t.rip, t.trace))
    = some (0x03, .halted, 0, []) := by decide

/-- V-42-1. -/
theorem test_writeCommand : ((nextOf (exec (.writeCommand 0xAF) (ready fixture [] []))).map fun t =>
      (t.trace, t.lines.cs, t.lines.dc, t.resp))
    = some ([.dc .cmd, .cs .on, .xfer 0xAF, .cs .off, .wait .settle], some .off, some .cmd, 0x00) := by decide

/-- V-42-2. -/
theorem test_writeData : ((nextOf (exec (.writeData 0x3C) (ready fixture [] []))).map fun t => (t.trace, t.lines.dc))
    = some ([.dc .data, .cs .on, .xfer 0x3C, .cs .off], some .data) := by decide

/-- V-42-5: the bytes of INIT_DISPLAY, and its first and last events. -/
theorem test_initDisplay :
    (((nextOf (exec .initDisplay (ready fixture [] []))).map fun t => t.trace.filterMap fun e =>
      match e with
      | .xfer b => some b
      | .cfgDir | .cfgSpi _ | .clrStatus | .dc _ | .cs _ | .rst _ | .wait _ => none)
    = some [0xA0, 0xAE, 0xC8, 0xA3, 0x2F, 0x26, 0x81, 0x07, 0xAF, 0xA4, 0x40, 0xB0, 0x10, 0x00, 0xFF, 0xFF, 0xFF,
      0xFF, 0xFF])
    ∧ ((nextOf (exec .initDisplay (ready fixture [] []))).map fun t =>
        (t.trace.take 4, t.trace.length, t.lines.rst))
      = some ([.wait .power, .rst .on, .wait .reset, .rst .off], 94, some .off) := by decide

/-- V-42-8: page 0x1A is truncated to page 10, and column 0xAB is split. -/
theorem test_setCursor : ((nextOf (exec (.setCursor 0x1A 0xAB) (ready fixture [] []))).map fun t =>
      (t.trace[2]?, t.trace[7]?, t.trace[12]?, t.trace.length, t.rip, t.opPage))
    = some (some (.xfer 0xBA), some (.xfer 0x1A), some (.xfer 0x0B), 15, 3, 0x1A) := by decide

/-- V-42-9: the last cell of the surface, and one page and one column past it. -/
theorem test_setCursor_checked :
    ((nextOf (exec (.setCursor 7 127) (ready checkedFixture [] []))).map fun t => (t.resp, t.trace.length))
      = some (0x00, 15)
    ∧ ((nextOf (exec (.setCursor 8 0) (ready checkedFixture [] []))).map fun t => (t.resp, t.trace, t.rip))
      = some (0x04, [], 3)
    ∧ ((nextOf (exec (.setCursor 0 128) (ready checkedFixture [] []))).map fun t => (t.resp, t.trace, t.fault))
      = some (0x04, [], 0x00) := by decide

/-- V-43-12 on the tiny surface: three pages, the last one off the surface. -/
theorem test_clearSurface : ((nextOf (exec .clearSurface (ready tiny [] []))).map fun t => t.trace)
    = some (wcEvents 0xB0 ++ wcEvents 0x10 ++ wcEvents 0x00 ++ wdEvents 0 ++ wdEvents 0
      ++ (wcEvents 0xB1 ++ wcEvents 0x10 ++ wcEvents 0x00 ++ wdEvents 0 ++ wdEvents 0)
      ++ (wcEvents 0xB2 ++ wcEvents 0x10 ++ wcEvents 0x00 ++ wdEvents 0 ++ wdEvents 0)) := by decide

/-- V-43-2. -/
theorem test_renderChar : ((nextOf (exec (.renderChar 0x41) (ready fixture [] []))).map fun t => t.trace)
    = some (wdEvents 0x7E ++ wdEvents 0x11 ++ wdEvents 0x11 ++ wdEvents 0x11 ++ wdEvents 0x7E ++ wdEvents 0x00) := by
  decide

/-- V-43-1, V-43-4: the last entry of the table and the code after it, in the checked mode. -/
theorem test_renderChar_checked :
    ((nextOf (exec (.renderChar 0x7F) (ready checkedFixture [] []))).map fun t => (t.resp, t.trace.length))
      = some (0x00, 24)
    ∧ ((nextOf (exec (.renderChar 0x80) (ready checkedFixture [] []))).map fun t => (t.resp, t.trace))
      = some (0x05, []) := by decide

/-- V-43-9: drawing the byte at 0xFFFF moves TEXT_PTR to 0x0000. -/
theorem test_renderString_wraps :
    ((nextOf (step { ready fixture [] [(65535, 0x41)] with seq := .busy .draw, textPtr := 0xFFFF })).map fun t =>
      (t.textPtr, t.seq, t.trace.length)) = some (0x0000, .busy .draw, 24)
    ∧ ((nextOf (step { ready fixture [] [(65535, 0x41)] with seq := .busy .draw, textPtr := 0x0000 })).map fun t =>
      (t.resp, t.seq, t.trace.length, t.rip)) = some (0x00, .idle, 0, 5) := by decide

/-- V-43-11b: at the terminator, 122 + 6 fits and 123 + 6 does not; the address error wins over the glyph error. -/
theorem test_renderString_checked :
    ((nextOf (step { ready checkedFixture [] [] with seq := .busy (.scan 1 false), opPage := 7, opCol := 122 })).map
      fun t => (t.seq, t.trace.length)) = some (.busy .draw, 15)
    ∧ ((nextOf (step { ready checkedFixture [] [] with seq := .busy (.scan 1 false), opPage := 7, opCol := 123 })).map
      fun t => (t.resp, t.seq, t.trace)) = some (0x04, .idle, [])
    ∧ ((nextOf (step { ready checkedFixture [] [] with seq := .busy (.scan 1 true), opPage := 0, opCol := 0 })).map
      fun t => (t.resp, t.trace)) = some (0x05, [])
    ∧ ((nextOf (step { ready checkedFixture [] [] with seq := .busy (.scan 1 true), opPage := 8, opCol := 0 })).map
      fun t => (t.resp, t.trace)) = some (0x04, []) := by decide

/-! ## Fatal faults -/

/-- V-60-1 to V-60-3: IllegalRequest wins over BusNotInitialised, which wins over TruncatedRequest. -/
theorem test_faults_not_ready :
    ((nextOf (step (State.start fixture [0x03, 0, 0] []))).map fun t => (t.fault, t.rip)) = some (0x02, 0)
    ∧ ((nextOf (step (State.start fixture [0x00] []))).map fun t => (t.fault, t.rip)) = some (0x01, 0)
    ∧ ((nextOf (step (State.start fixture [0x05] []))).map fun t => (t.fault, t.rip)) = some (0x02, 0) := by decide

/-- V-60-4, V-60-7, V-60-8. -/
theorem test_faults_ready :
    ((nextOf (step (ready fixture [0x09] []))).map fun t => (t.fault, t.seq)) = some (0x01, .halted)
    ∧ ((nextOf (step (ready fixture [0x03, 0x05] []))).map fun t => (t.fault, t.opPage)) = some (0x06, 0)
    ∧ ((nextOf (step (ready fixture [0x06, 0, 0, 0] []))).map fun t => (t.fault, t.rip)) = some (0x06, 0) := by decide

/-- V-70-1, V-70-3: the empty stream ends the run, and a halted block does nothing. -/
theorem test_run_ends : stopOf (step State.reset) = some (.inr .endOfRun)
    ∧ stopOf (step { ready fixture [0x04] [] with seq := .halted, fault := 0x01 }) = some (.inl (.halted 0x01)) := by
  decide

/-- STATUS after INIT_BUS in the checked mode: READY and CHECKED (10 R32). -/
theorem test_status : (ready checkedFixture [] []).status = 0b00001001
    ∧ ({ ready fixture [] [] with seq := .halted } : State).status = 0b00000101
    ∧ ({ ready fixture [] [] with seq := .busy .draw } : State).status = 0b00000011 := by decide

/-- V-41-4: 0xB3 goes out as 1, 0, 1, 1, 0, 0, 1, 1. -/
theorem test_mosi : mosiBits 0xB3 = [true, false, true, true, false, false, true, true] := by decide

/-! ## LCD commands and the data byte -/

/-- 44 R130 to R132, R136 to R139, R142, R143: each records its byte. -/
theorem test_configuration : ((nextOf (step (inFrame .cmd 0xA0 { observer with regs := .unknown }))).map fun t =>
      t.lcd.regs.adc) = some (some 0xA0)
    ∧ ((nextOf (step (inFrame .cmd 0xAE observer))).map fun t => t.lcd.regs.display) = some (some 0xAE)
    ∧ ((nextOf (step (inFrame .cmd 0xC8 { observer with regs := .unknown }))).map fun t => t.lcd.regs.comDir)
      = some (some 0xC8)
    ∧ ((nextOf (step (inFrame .cmd 0xA3 { observer with regs := .unknown }))).map fun t => t.lcd.regs.bias)
      = some (some 0xA3)
    ∧ ((nextOf (step (inFrame .cmd 0x2F { observer with regs := .unknown }))).map fun t => t.lcd.regs.power)
      = some (some 0x2F)
    ∧ ((nextOf (step (inFrame .cmd 0x26 { observer with regs := .unknown }))).map fun t => t.lcd.regs.ratio)
      = some (some 0x26)
    ∧ ((nextOf (step (inFrame .cmd 0xAF { observer with regs := .unknown }))).map fun t => t.lcd.regs.display)
      = some (some 0xAF)
    ∧ ((nextOf (step (inFrame .cmd 0xA4 { observer with regs := .unknown }))).map fun t => t.lcd.regs.allPoints)
      = some (some 0xA4)
    ∧ ((nextOf (step (inFrame .cmd 0x40 { observer with regs := .unknown }))).map fun t =>
      (t.lcd.regs.startLine, t.lcd.column)) = some (some 0x40, some 5) := by decide

/-- V-44-2, V-44-5, and 44 R133. -/
theorem test_address : ((nextOf (step (inFrame .cmd 0x07 observer))).map fun t => t.lcd.column) = some (some 7)
    ∧ ((nextOf (step (inFrame .cmd 0x17 observer))).map fun t => t.lcd.column) = some (some 0x75)
    ∧ ((nextOf (step (inFrame .cmd 0xBA observer))).map fun t => t.lcd.page) = some (some 10) := by decide

/-- V-44-1: 0x81, then 0x07 is the level and leaves the column alone. -/
theorem test_volume : ((nextOf (step (inFrame .cmd 0x81 observer))).map fun t => t.lcd.volPending) = some true
    ∧ ((nextOf (step (inFrame .cmd 0x07 { observer with volPending := true, regs := .unknown }))).map fun t =>
      (t.lcd.regs.volume, t.lcd.volPending, t.lcd.column)) = some (some 0x07, false, some 5) := by decide

/-- V-44-3, V-44-8: the observer becomes lost. -/
theorem test_lost :
    ((nextOf (step (inFrame .data 0x00 { observer with volPending := true }))).map fun t => t.lcd.valid) = some false
    ∧ ((nextOf (step (inFrame .cmd 0xA5 observer))).map fun t => t.lcd.valid) = some false := by decide

/-- V-44-6: the last column of page 0, and then the column is unknown. -/
theorem test_data : ((nextOf (step (inFrame .data 0xAA { observer with colHi := some 7, colLo := some 15 }))).map
      fun t => (t.lcd.cell 0 127, t.lcd.cell 0 4, t.lcd.column)) = some (some 0xAA, some 0xFF, none)
    ∧ ((nextOf (step (inFrame .data 0xBB { observer with colLo := none }))).map fun t => t.lcd.cell 0 4)
      = some none := by decide

/-- V-44-7: off the surface, under both values of OFF_SURFACE_ISOLATED. -/
theorem test_data_off_surface :
    ((nextOf (exec (.data 0xCC) { drawn fixture with lcd := { observer with page := some 9, colLo := some 0 } })).map
      fun t => (t.lcd.cell 0 4, t.lcd.column)) = some (some 0xFF, some 1)
    ∧ ((nextOf (exec (.data 0xCC) { drawn { fixture with offSurfaceIsolated := false } with
      lcd := { observer with page := some 9, colLo := some 0 } })).map fun t => (t.lcd.cell 0 4, t.lcd.column))
      = some (none, some 1) := by decide

/-- V-44-11: before any reset pulse nothing is read. -/
theorem test_not_valid : ((nextOf (step (inFrame .data 0x55 .initial))).map fun t => t.lcd.vram) = some [] := by decide

/-! ## The assembler (program P2 without its boot, 30 R75) -/

theorem test_assemble : assemble
      ["  RENDER_STRING 2, 10, msg    ; draw it".toList, "  RENDER_CHAR 'A'".toList, "  .text_org 0x0100".toList,
        "msg:  .asciz \"HI\"".toList]
    = some ([0x06, 0x02, 0x0A, 0x00, 0x01, 0x05, 0x41], [(0x100, 0x48), (0x101, 0x49)]) := by decide

/-! ## Witnesses: the hypotheses of each obligation hold together, each clause at a boundary -/

/-- TEXT of 95 V-43-8: "AB" at 0x0200. -/
def textAB : Memory := [(0x0200, 0x41), (0x0201, 0x42)]

/-- The fixture about to run RENDER_STRING p, c, 0x0200. -/
def aboutToDraw (c : Config) (p col : Byte) (text : Memory) : State := ready c [0x06, p, col, 0x00, 0x02] text

theorem witness_DecodeOfEncode : Instr.wellFormed .request (.setCursor 0xFF 0x00) = true
    ∧ Instr.wellFormed (.command false) (.pageAddr 15) = true
    ∧ Instr.wellFormed (.command true) (.volumeLevel 0x00) = true
    ∧ Instr.wellFormed .data (.data 0xFF) = true := by decide

theorem witness_DecodeAcceptsOnlyEncodings :
    decode .request [0x06, 0xFF, 0xFF, 0xFF, 0xFF, 0x01] = .ok (.renderString 0xFF 0xFF 0xFFFF, [0x01])
    ∧ decode (.command false) [0x1F] = .ok (.colAddrHi 15, []) := ⟨rfl, rfl⟩

theorem witness_StepRunsTheRequestAtRip : ∃ s : State, s.trace.length ≤ s.seen ∧ s.seq = .idle
    ∧ decode .request (s.stream.drop s.rip) = .ok (.writeData 0x3C, []) :=
  ⟨ready fixture [0x08, 0x3C] [], by decide, rfl, rfl⟩

theorem witness_StepRunsTheByteOfAFrame :
    (∃ s : State, s.trace[s.seen]? = some (.xfer 0xAF) ∧ s.lcd.cs = some .on ∧ s.lcd.pulse = .released
      ∧ s.lcd.dc = some .cmd ∧ decode (.command s.lcd.volPending) [0xAF] = .ok (.displayOn, []))
    ∧ ∃ s : State, s.trace[s.seen]? = some (.xfer 0xAF) ∧ s.lcd.cs = some .on ∧ s.lcd.pulse = .released
      ∧ s.lcd.dc = some .data ∧ decode .data [0xAF] = .ok (.data 0xAF, []) :=
  ⟨⟨inFrame .cmd 0xAF observer, rfl, rfl, rfl, rfl, rfl⟩, ⟨inFrame .data 0xAF observer, rfl, rfl, rfl, rfl, rfl⟩⟩

theorem witness_MachineStopsExactlyAtTheEndOfARun :
    (∃ s : State, s.trace.length ≤ s.seen ∧ s.seq = .halted)
    ∧ ∃ s : State, s.trace.length ≤ s.seen ∧ s.seq = .idle ∧ s.stream.length ≤ s.rip :=
  ⟨⟨State.reset.raiseFault 0x01, by decide, rfl⟩, ⟨State.reset, by decide, rfl, by decide⟩⟩

theorem witness_ReservedOpcodeFaults (op : Byte) (h : op = 0x00 ∨ op = 0x09 ∨ op = 0xFF) :
    ∃ s : State, s.trace.length ≤ s.seen ∧ s.seq = .idle ∧ s.stream.drop s.rip = [op]
      ∧ (op = 0x00 ∨ 0x09 ≤ op.toNat) := by
  refine ⟨ready fixture [op] [], Nat.le_refl 0, rfl, rfl, ?_⟩
  rcases h with rfl | rfl | rfl <;> decide

theorem witness_RequestBeforeInitBusFaults (op : Byte) (h : op = 0x02 ∨ op = 0x08) :
    ∃ s : State, s.trace.length ≤ s.seen ∧ s.seq = .idle ∧ s.stream.drop s.rip = [op] ∧ 0x02 ≤ op.toNat
      ∧ op.toNat ≤ 0x08 ∧ s.ready = false := by
  refine ⟨State.start fixture [op] [], Nat.le_refl 0, rfl, rfl, ?_, ?_, rfl⟩ <;> rcases h with rfl | rfl <;> decide

theorem witness_SecondInitBusFaults : ∃ s : State, s.trace.length ≤ s.seen ∧ s.seq = .idle
    ∧ s.stream.drop s.rip = [0x01] ∧ s.ready = true :=
  ⟨ready fixture [0x01] [], by decide, rfl, rfl, rfl⟩

theorem witness_TruncatedRequestFaults (op : Byte) (rest : List Byte)
    (h : (op, rest) ∈ [((0x03 : Byte), [(0x05 : Byte)]), (0x05, []), (0x06, [0, 0, 0]), (0x07, []), (0x08, [])]) :
    ∃ s : State, s.trace.length ≤ s.seen ∧ s.seq = .idle ∧ s.stream.drop s.rip = op :: rest ∧ s.ready = true
      ∧ (op = 0x03 ∧ rest.length < 2 ∨ op = 0x05 ∧ rest.length < 1 ∨ op = 0x06 ∧ rest.length < 4
        ∨ op = 0x07 ∧ rest.length < 1 ∨ op = 0x08 ∧ rest.length < 1) := by
  refine ⟨ready fixture (op :: rest) [], Nat.le_refl 0, rfl, rfl, rfl, ?_⟩
  simp only [List.mem_cons, Prod.mk.injEq, List.not_mem_nil, or_false] at h
  rcases h with ⟨rfl, rfl⟩ | ⟨rfl, rfl⟩ | ⟨rfl, rfl⟩ | ⟨rfl, rfl⟩ | ⟨rfl, rfl⟩ <;> decide

theorem witness_RequestTakesTheReadyFault : (ready fixture [] []).ready = true ∧ State.reset.ready = false
    ∧ Instr.wellFormed .request .initDisplay = true ∧ Instr.initDisplay ≠ .initBus := by decide

theorem witness_HaltedBlockStaysHalted : ∃ s t : State, s.seq = .halted ∧ step s = .next t :=
  have h : (nextOf (step ((inFrame .cmd 0xAF observer).raiseFault 0x01))).isSome = true := by decide
  ⟨_, (nextOf_exists h).choose, rfl, (nextOf_exists h).choose_spec⟩

theorem witness_BlockResetGivesTheResetValues : ∃ s t : State, s.seq = .halted ∧ t = s.blockReset :=
  ⟨(ready fixture [0x04] []).raiseFault 0x01, _, rfl, rfl⟩

/-- A block reset does not start the count of free values again (43 R111; log entry 26). -/
theorem test_blockReset_keeps_draws :
    ({ ready fixture [0x04] [] with draws := 12, rip := 1 } : State).blockReset.draws = 12
      ∧ ({ ready fixture [0x04] [] with draws := 12, rip := 1 } : State).blockReset.rip = 0 := by decide

theorem witness_InitBusConfiguresTheBus : State.reset.ready = false ∧ (ready fixture [] []).ready = true := by decide

/-- Meets the hypotheses of WriteCommandSendsTheByte, WriteDataSendsTheByte, ClearSurfaceEventCount, and of both clauses
of InitDisplaySendsTheSequence and ClearSurfaceSweepsEveryPage. -/
theorem witness_ready : ((ready fixture [] []).ready = true ∧ (ready fixture [] []).cfg.wf = true)
    ∧ (State.start fixture [] []).ready = false ∧ (State.start fixture [] []).cfg.wf = true := by decide

theorem witness_SetCursorSendsTheAddress :
    ((ready fixture [] []).ready = true ∧ (ready fixture [] []).cfg.checkedMode = false)
    ∧ (ready checkedFixture [] []).ready = true ∧ (7 : Byte).toNat < (ready checkedFixture [] []).cfg.pages
      ∧ (127 : Byte).toNat < (ready checkedFixture [] []).cfg.columns := by decide

theorem witness_CheckedModeRespondsWithoutEvents : (ready checkedFixture [] []).ready = true
    ∧ (ready checkedFixture [] []).cfg.checkedMode = true
    ∧ (ready checkedFixture [] []).cfg.pages ≤ (8 : Byte).toNat
    ∧ (ready checkedFixture [] []).cfg.columns ≤ (128 : Byte).toNat
    ∧ (ready checkedFixture [] []).cfg.glyphCount ≤ ((0x80 : Byte) - 0x20).toNat := by decide

theorem witness_RenderCharSendsTheGlyph : (ready fixture [] []).ready = true ∧ (ready fixture [] []).cfg.wf = true
    ∧ (ready fixture [] []).cfg.glyphRom[((0x7F : Byte) - 0x20).toNat]? = some [0, 0, 0, 0, 0, 0]
    ∧ (ready fixture [] []).cfg.glyphRom[((0x20 : Byte) - 0x20).toNat]? = some [0, 0, 0, 0, 0, 0] := by decide

theorem witness_RenderCharOutOfTableCompletes : (ready fixture [] []).ready = true
    ∧ (ready fixture [] []).cfg.wf = true ∧ (ready fixture [] []).cfg.checkedMode = false
    ∧ (ready fixture [] []).cfg.glyphCount ≤ ((0x80 : Byte) - 0x20).toNat
    ∧ (ready fixture [] []).cfg.glyphCount ≤ ((0x1F : Byte) - 0x20).toNat := by decide

theorem witness_RenderStringStarts : ((ready fixture [] []).ready = true ∧ fixture.checkedMode = false)
    ∧ (ready checkedFixture [] []).ready = true ∧ checkedFixture.checkedMode = true := by decide

theorem witness_DrawingStepSendsTheCharacter :
    ∃ s : State, s.trace.length ≤ s.seen ∧ s.seq = .busy .draw ∧ s.cfg.wf = true ∧ s.text.read s.textPtr ≠ 0x00
      ∧ s.cfg.glyphRom[(s.text.read s.textPtr - 0x20).toNat]? = some [0x7E, 0x11, 0x11, 0x11, 0x7E, 0x00] :=
  ⟨{ ready fixture [] [(65535, 0x41)] with seq := .busy .draw, textPtr := 0xFFFF }, by decide, rfl, by decide,
    by decide, by decide⟩

theorem witness_DrawingStepEndsAtTheTerminator :
    ∃ s : State, s.trace.length ≤ s.seen ∧ s.seq = .busy .draw ∧ s.text.read s.textPtr = 0x00 :=
  ⟨{ ready fixture [] [] with seq := .busy .draw, textPtr := 0xFFFF }, by decide, rfl, by decide⟩

theorem textAB_length : stringOfLength textAB 0x0200 2 := by unfold stringOfLength; decide

theorem textAB_inTable : stringInTable fixture textAB 0x0200 2 := by unfold stringInTable; decide

theorem witness_RenderStringSendsTheWholeString :
    (∃ s : State, s.caughtUp ∧ s.seq = .idle ∧ s.ready = true ∧ s.cfg.wf = true
      ∧ decode .request (s.stream.drop s.rip) = .ok (.renderString 15 255 0x0200, [])
      ∧ stringOfLength s.text 0x0200 2 ∧ s.cfg.checkedMode = false)
    ∧ ∃ s : State, s.caughtUp ∧ s.seq = .idle ∧ s.ready = true ∧ s.cfg.wf = true
      ∧ decode .request (s.stream.drop s.rip) = .ok (.renderString 7 116 0x0200, [])
      ∧ stringOfLength s.text 0x0200 2 ∧ (7 : Byte).toNat < s.cfg.pages ∧ (116 : Byte).toNat < s.cfg.columns
      ∧ (116 : Byte).toNat + s.cfg.glyphWidth * 2 ≤ s.cfg.columns ∧ stringInTable s.cfg s.text 0x0200 2 :=
  ⟨⟨aboutToDraw fixture 15 255 textAB, rfl, rfl, rfl, by decide, rfl, textAB_length, rfl⟩,
    ⟨aboutToDraw checkedFixture 7 116 textAB, rfl, rfl, rfl, by decide, rfl, textAB_length, by decide, by decide,
      by decide, textAB_inTable⟩⟩

theorem witness_RenderStringRefusedEmitsNothing (p c : Byte) (text : Memory)
    (h : (p, c, text) ∈ [((8 : Byte), (0 : Byte), textAB), (0, 128, textAB), (7, 117, textAB),
      (0, 0, [(0x0200, 0x41), (0x0201, 0x1F)])]) :
    ∃ s : State, s.caughtUp ∧ s.seq = .idle ∧ s.ready = true ∧ s.cfg.checkedMode = true
      ∧ decode .request (s.stream.drop s.rip) = .ok (.renderString p c 0x0200, [])
      ∧ stringOfLength s.text 0x0200 2
      ∧ (s.cfg.pages ≤ p.toNat ∨ s.cfg.columns ≤ c.toNat ∨ s.cfg.columns < c.toNat + s.cfg.glyphWidth * 2
        ∨ ¬ stringInTable s.cfg s.text 0x0200 2) := by
  refine ⟨aboutToDraw checkedFixture p c text, rfl, rfl, rfl, rfl, rfl, ?_, ?_⟩
  · simp only [List.mem_cons, Prod.mk.injEq, List.not_mem_nil, or_false] at h
    rcases h with ⟨rfl, rfl, rfl⟩ | ⟨rfl, rfl, rfl⟩ | ⟨rfl, rfl, rfl⟩ | ⟨rfl, rfl, rfl⟩ <;>
      exact (by unfold stringOfLength; decide)
  · simp only [List.mem_cons, Prod.mk.injEq, List.not_mem_nil, or_false] at h
    rcases h with ⟨rfl, rfl, rfl⟩ | ⟨rfl, rfl, rfl⟩ | ⟨rfl, rfl, rfl⟩ | ⟨rfl, rfl, rfl⟩
    · exact .inl (by decide)
    · exact .inr (.inl (by decide))
    · exact .inr (.inr (.inl (by decide)))
    · exact .inr (.inr (.inr (by unfold stringInTable; decide)))

/-- TEXT memory full of 'A'. -/
def textFull : Memory := (List.range 65536).map fun k => (k, 0x41)

theorem cellFind_range (n a : Nat) (v : Byte) (h : a < n) :
    cellFind ((List.range n).map fun k => (k, v)) a = some v := by
  induction n with
  | zero => omega
  | succ n ih =>
    have happ : ∀ (xs : List Host.Cell) (y : Host.Cell) (b : Byte), cellFind xs a = some b →
        cellFind (xs ++ [y]) a = some b := by
      intro xs y b hx
      induction xs with
      | nil => cases hx
      | cons x rest ihx => simp only [List.cons_append, cellFind] at hx ⊢; split_ifs at hx ⊢ <;> simp_all
    have hlast : ∀ xs : List Host.Cell, (∀ x ∈ xs, x.1 ≠ a) → cellFind (xs ++ [(a, v)]) a = some v := by
      intro xs hx
      induction xs with
      | nil => simp [cellFind]
      | cons x rest ihx =>
        simp only [List.cons_append, cellFind]
        rw [if_neg (Ne.symm (hx x (List.mem_cons_self ..)))]
        exact ihx fun y hy => hx y (List.mem_cons_of_mem _ hy)
    rw [List.range_succ, List.map_append, List.map_singleton]
    by_cases hn : a < n
    · exact happ _ _ _ (ih hn)
    · obtain rfl : a = n := by omega
      exact hlast _ fun x hx => by
        obtain ⟨k, hk, rfl⟩ := List.mem_map.1 hx
        exact (List.mem_range.1 hk).ne

theorem read_of_find {m : Memory} {a : Addr} {v : Byte} (h : cellFind m a.toNat = some v) (hv : v ≠ 0x00) :
    m.read a ≠ 0x00 := by
  rw [Memory.read, h]
  exact hv

theorem unterminated_of {m : Memory} (h : ∀ a : Addr, m.read a ≠ 0x00) :
    ∃ s : State, s.isBusy = true ∧ ∀ a : Addr, s.text.read a ≠ 0x00 :=
  ⟨{ ready fixture [] m with seq := .busy .draw }, rfl, h⟩

theorem witness_UnterminatedStringNeverEnds :
    ∃ s : State, s.isBusy = true ∧ ∀ a : Addr, s.text.read a ≠ 0x00 :=
  unterminated_of (m := textFull) fun a => read_of_find (cellFind_range 65536 a.toNat 0x41 a.isLt) (by decide)

/-- Meets the hypotheses of ConfigurationCommandsRecordTheirByte, AddressCommandsSetTheirLatch and
VolumePairSetsTheLevel. -/
theorem witness_valid : (drawn fixture).lcd.valid = true ∧ (drawn fixture).lcd.volPending = false := by decide

theorem witness_NothingIsReadBeforeAReset : State.reset.lcd.valid = false
    ∧ Instr.wellFormed .request .displayOn = false ∧ Instr.wellFormed .request (.data 0x55) = false := by decide

theorem witness_DataByteWritesItsCell :
    ∃ s : State, s.lcd.valid = true ∧ s.lcd.volPending = false ∧ s.lcd.page = some 7 ∧ s.lcd.colHi = some 7
      ∧ s.lcd.colLo = some 15 ∧ (7 : Nibble).toNat < s.cfg.pages ∧ ((7 : Nibble) ++ (15 : Nibble)).toNat < s.cfg.columns
      ∧ s.cfg.columns ≤ 256 :=
  ⟨{ drawn fixture with lcd := { observer with page := some 7, colHi := some 7, colLo := some 15 } }, by decide⟩

theorem witness_DataByteAtUnknownColumn :
    ∃ s : State, s.lcd.valid = true ∧ s.lcd.volPending = false ∧ s.lcd.page = some 7
      ∧ (7 : Nibble).toNat < s.cfg.pages ∧ s.lcd.column = none :=
  ⟨{ drawn fixture with lcd := { observer with page := some 7, colLo := none } }, by decide⟩

theorem witness_DataByteOffTheSurface :
    (∃ s : State, s.lcd.valid = true ∧ s.lcd.volPending = false ∧ s.cfg.columns ≤ 256 ∧ s.lcd.page = none)
    ∧ (∃ s : State, s.lcd.valid = true ∧ s.lcd.volPending = false ∧ s.cfg.columns ≤ 256 ∧ s.lcd.page = some 8
      ∧ s.cfg.pages ≤ (8 : Nibble).toNat)
    ∧ ∃ s : State, s.lcd.valid = true ∧ s.lcd.volPending = false ∧ s.cfg.columns ≤ 256 ∧ s.lcd.page = some 0
      ∧ s.lcd.column = some 128 ∧ s.cfg.columns ≤ 128 :=
  ⟨⟨{ drawn fixture with lcd := { observer with page := none } }, by decide⟩,
    ⟨{ drawn fixture with lcd := { observer with page := some 8 } }, by decide⟩,
    ⟨{ drawn fixture with lcd := { observer with colHi := some 8, colLo := some 0 } }, by decide⟩⟩

theorem witness_ObserverBecomesLost :
    (∃ s : State, s.lcd.valid = true ∧ s.lcd.volPending = true)
    ∧ ∃ s : State, s.lcd.valid = true ∧ s.trace[s.seen]? = some (.xfer 0xA5) ∧ s.lcd.cs = some .on
      ∧ s.lcd.pulse = .released ∧ s.lcd.dc = some .cmd ∧ s.lcd.volPending = false
      ∧ ((0xA5 : Byte) &&& 0xF0) ∉ ([0xB0, 0x10, 0x00] : List Byte)
      ∧ (0xA5 : Byte) ∉ ([0x81, 0xA0, 0xAE, 0xAF, 0xC8, 0xA3, 0x2F, 0x26, 0xA4, 0x40] : List Byte) :=
  ⟨⟨{ drawn fixture with lcd := { observer with volPending := true } }, by decide⟩,
    ⟨inFrame .cmd 0xA5 observer, by decide⟩⟩

theorem witness_ControllerStepIsTheReferenceReading : ∃ s : State, s.trace[s.seen]? = some (.xfer 0x3C) :=
  ⟨inFrame .data 0x3C observer, rfl⟩

/-- A state of the fixture whose controller has read all of these events but the last. -/
def pulsing (evs : List Event) (last : Event) : State :=
  { ready fixture [] [] with trace := evs ++ [last], seen := evs.length, lcd := Controller.initial.afterAll fixture evs }

/-- Both outcomes of `rst(OFF)`: a pulse held by its wait, one with no wait, and one with a frame inside it. -/
theorem witness_ResetPulseMakesTheObserverValid :
    (∃ s : State, s.cfg.tReset ≤ nominal s.cfg .reset ∧ s.trace.drop s.seen = [.rst .on, .wait .reset, .rst .off])
    ∧ (∃ s t : State, s.observerInv ∧ s.trace[s.seen]? = some (.rst .off) ∧ pulseHeld s.cfg (s.trace.take s.seen)
      ∧ step s = .next t ∧ s.lcd.valid = false ∧ t.lcd.valid = true)
    ∧ (∃ s : State, s.observerInv ∧ s.trace[s.seen]? = some (.rst .off) ∧ ¬ pulseHeld s.cfg (s.trace.take s.seen))
    ∧ ∃ s : State, s.observerInv ∧ s.trace[s.seen]? = some (.rst .off)
      ∧ ¬ pulseHeld s.cfg (s.trace.take s.seen) ∧ .wait .reset ∈ s.trace :=
  ⟨⟨{ ready fixture [] [] with trace := [.rst .on, .wait .reset, .rst .off] }, by decide⟩,
    ⟨pulsing [.rst .on, .wait .reset] (.rst .off), _, by decide, rfl, (afterAll_pulse _ _).2.1 (by decide), rfl, by decide,
      by decide⟩,
    ⟨pulsing [.rst .on] (.rst .off), by decide, rfl, fun h => absurd ((afterAll_pulse _ _).2.2 h) (by decide)⟩,
    ⟨pulsing [.rst .on, .wait .reset, .cs .on, .xfer 0x00, .cs .off] (.rst .off), by decide, rfl,
      fun h => absurd ((afterAll_pulse _ _).2.2 h) (by decide), by decide⟩⟩

theorem witness_InitDisplayOnTheSurface : fixture.wf = true ∧ 6 ≤ fixture.columns
    ∧ ({ tiny with columns := 6 } : Config).wf = true ∧ 6 ≤ ({ tiny with columns := 6 } : Config).columns := by decide

theorem witness_DataRunLandsInConsecutiveColumns :
    ∃ o : Controller, o.valid = true ∧ o.volPending = false ∧ o.pulse = .released ∧ o.page = some 7
      ∧ o.column = some 122 ∧ (7 : Nibble).toNat < fixture.pages
      ∧ 122 + (List.replicate 6 (0x7E : Byte)).length ≤ fixture.columns ∧ fixture.columns ≤ 256 :=
  ⟨{ observer with page := some 7, colHi := some 7, colLo := some 10 }, by decide⟩

theorem witness_ClearSurfaceOnTheSurface : fixture.wf = true ∧ observer.valid = true ∧ observer.volPending = false
    ∧ observer.pulse = .released := by decide

theorem witness_TextReadsBackAsWritten : Memory.wf textAB = true := by decide

theorem witness_HostWritesTextOnlyWhenIdle : (ready fixture [] textAB).text.wf = true
    ∧ (ready fixture [] textAB).seq = .idle
    ∧ ({ ready fixture [] textAB with seq := .busy .draw } : State).seq ≠ .idle := by decide

theorem witness_BlockReadsNothingFromTheObserver : ∃ s t : State, s.trace.length ≤ s.seen ∧ step s = .next t :=
  have h : (nextOf (step (ready fixture [0x04] []))).isSome = true := by decide
  ⟨ready fixture [0x04] [], (nextOf_exists h).choose, by decide, (nextOf_exists h).choose_spec⟩

theorem witness_OnlyInitBusSetsReady : ∃ s t : State, step s = .next t ∧ s.ready = false ∧ t.ready = true := by
  have h : ((nextOf (step (State.start fixture [0x01] []))).map State.ready) = some true := by decide
  cases hs : step (State.start fixture [0x01] []) with
  | next t => rw [hs] at h; exact ⟨_, t, hs, rfl, Option.some.inj h⟩
  | fault f => rw [hs] at h; cases h
  | refused r => rw [hs] at h; cases h

/-- A state that meets every invariant and makes a step, INIT_BUS from reset: the hypotheses of TraceAndRipOnlyGrow and
of each statement that every step keeps an invariant. -/
theorem witness_invariants : ∃ s t : State, step s = .next t ∧ s.observerInv ∧ s.linesInv ∧ s.linesAtRest
    ∧ s.statusInv ∧ s.readyInv ∧ wellFramed s.trace = true ∧ s.ripInv ∧ s.memoryInv :=
  have h : (nextOf (step (State.start fixture [0x01] []))).isSome = true := by decide
  ⟨State.start fixture [0x01] [], (nextOf_exists h).choose, (nextOf_exists h).choose_spec, ⟨by decide, rfl⟩, rfl, by decide,
    ⟨by decide, by decide, by decide, fun _ => ⟨rfl, fun _ _ h => (by cases h)⟩⟩,
    ⟨fun h => Bool.noConfusion h, fun _ => ⟨rfl, rfl, .inl rfl⟩⟩, rfl, by decide, by decide⟩

end Sys2Proof.Tests
end

section
/-! SUPPORT. Proofs of the statements about the block's state (spec 10): what the flags say, the step inversions that
the invariants share, and the obligations of the family, each from those. -/

namespace Sys2Proof.Machine

/-! The flags -/

theorem State.isBusy_iff (s : State) : s.isBusy = true ↔ ∃ job, s.seq = .busy job := by
  unfold State.isBusy
  cases s.seq <;> simp

theorem State.isHalted_iff (s : State) : s.isHalted = true ↔ s.seq = .halted := beq_iff_eq

/-- Four flags under a zero nibble: each at its own bit, and no bit above them. -/
theorem packedFlags_bits : ∀ checked halted busy ready : Bool,
    let w : Byte := 0#4 ++ BitVec.ofBool checked ++ BitVec.ofBool halted ++ BitVec.ofBool busy ++ BitVec.ofBool ready
    w.getLsbD 0 = ready ∧ w.getLsbD 1 = busy ∧ w.getLsbD 2 = halted ∧ w.getLsbD 3 = checked ∧ w.toNat < 16 := by
  decide

/-- Settles O16: the packed bits are the flags, and BUSY and HALTED are the phases they name. -/
theorem statusPacksTheFlags : Obligations.StatusPacksTheFlags := by
  intro s
  obtain ⟨hready, hbusy, hhalted, hchecked, hlt⟩ :=
    packedFlags_bits s.cfg.checkedMode s.isHalted s.isBusy s.ready
  unfold State.status
  exact ⟨by rw [hready], by rw [hbusy, s.isBusy_iff], by rw [hhalted, s.isHalted_iff], by rw [hchecked], hlt⟩

/-! The decoder's faults -/

/-- Only opcode 0x01 decodes to INIT_BUS (30 R61). -/
theorem opcode_of_decode_initBus {bs rest : List Byte} :
    decodeRequest bs = .ok (.initBus, rest) → ∃ op tail, bs = op :: tail ∧ op.toNat = 1 := by
  fun_cases decodeRequest bs with
  | case2 op tail hop => exact fun _ => ⟨op, tail, rfl, hop⟩
  | _ => exact fun h => by cases h

/-- A request whose operands are cut off is the fault of its READY check, or else TruncatedRequest. -/
theorem step_truncated {s : State} {op : Byte} (h : s.trace.length ≤ s.seen) (hs : s.seq = .idle)
    (hd : decode .request (s.stream.drop s.rip) = .error (.truncatedRequest op)) :
    step s = .next (truncatedFault op s) := by
  simp [step, fetch_idle h hs, fetchRequest, hd]

theorem truncatedFault_notReady {s : State} {op : Byte} (hop : op ≠ 0x01) (hr : s.ready = false) :
    truncatedFault op s = s.raiseFault 0x02 := by
  rw [truncatedFault, beq_eq_false_iff_ne.2 hop, hr]
  rfl

/-- Settles O10: the READY check comes first whether the operands are whole or cut off. -/
theorem requestBeforeInitBusFaults : Obligations.RequestBeforeInitBusFaults := by
  intro s op rest hseen hidle hstream hlo hhi hr
  rcases decodeRequest_cases (s.stream.drop s.rip) with
    ⟨hnil, _⟩ | ⟨i, tail, hd, hreq, _⟩ | ⟨op', _, hs, _, hop⟩ | ⟨op', _, hs, hd, hop⟩
  · rw [hstream] at hnil; cases hnil
  · have hi : i ≠ .initBus := by
      rintro rfl
      obtain ⟨op', _, hs, hop⟩ := opcode_of_decode_initBus hd
      obtain ⟨rfl, _⟩ := List.cons.inj (hstream.symm.trans hs)
      omega
    obtain ⟨f, hf⟩ := exec_request_accept hreq hi s
    exact (step_request hseen hidle hd).trans (hf.trans (accept_notReady hr f))
  · obtain ⟨rfl, _⟩ := List.cons.inj (hstream.symm.trans hs)
    omega
  · obtain ⟨rfl, _⟩ := List.cons.inj (hstream.symm.trans hs)
    have hne : op ≠ 0x01 := by
      rintro rfl
      exact absurd hlo (by decide)
    exact (step_truncated hseen hidle hd).trans (congrArg _ (truncatedFault_notReady hne hr))

/-- Settles O11: opcode 0x01 decodes to INIT_BUS, whose READY check fails. -/
theorem secondInitBusFaults : Obligations.SecondInitBusFaults := by
  intro s rest hseen hidle hstream hr
  have hd : decode .request (s.stream.drop s.rip) = .ok (.initBus, rest) := by rw [hstream]; rfl
  exact (step_request hseen hidle hd).trans ((exec_initBus s).trans (accept_initBus_ready hr _))

/-! Two inversions of a step that answers a next state -/

/-- Either the controller reads an event, or a block that is not HALTED makes a move. -/
theorem step_reads_or_moves {s t : State} (h : step s = .next t) :
    (∃ o, t = s.readEvent.setLcd o) ∨ s.seq ≠ .halted ∧ ∃ evs, BlockMove s t evs := by
  cases step_cases h with
  | event ev o hev ht => exact .inl ⟨o, ht⟩
  | fault code hseen hidle hcode ht =>
    subst ht
    exact .inr ⟨by simp [hidle], _, raiseFault_move s hcode⟩
  | request i rest hseen hidle hd hreq hlen hexec =>
    obtain ⟨t', evs, he, hm, -⟩ := exec_request hreq s
    obtain rfl := Host.Outcome.next.inj (he.symm.trans hexec)
    exact .inr ⟨by simp [hidle], evs, hm⟩
  | string job hseen hbusy ht =>
    subst ht
    obtain ⟨evs, hm, -⟩ := continueString_move hbusy
    exact .inr ⟨by simp [hbusy], evs, hm⟩

/-- With READY = 0: the controller reads an event, the block faults, a string in progress goes on, or INIT_BUS runs. -/
theorem step_notReady {s t : State} (hr : s.ready = false) (h : step s = .next t) :
    (∃ o, t = s.readEvent.setLcd o) ∨ (∃ code, t = s.raiseFault code)
      ∨ (∃ job, s.seq = .busy job ∧ t = s.continueString job)
      ∨ (∃ rest, decode .request (s.stream.drop s.rip) = .ok (.initBus, rest)) ∧ step s = exec .initBus s := by
  cases step_cases h with
  | event ev o hev ht => exact .inl ⟨o, ht⟩
  | fault code hseen hidle hcode ht => exact .inr (.inl ⟨code, ht⟩)
  | string job hseen hbusy ht => exact .inr (.inr (.inl ⟨job, hbusy, ht⟩))
  | request i rest hseen hidle hd hreq hlen hexec =>
    by_cases hi : i = .initBus
    · subst hi
      exact .inr (.inr (.inr ⟨⟨rest, hd⟩, step_request hseen hidle hd⟩))
    · obtain ⟨f, hf⟩ := exec_request_accept hreq hi s
      rw [hf, accept_notReady hr] at hexec
      exact .inr (.inl ⟨0x02, (Host.Outcome.next.inj hexec).symm⟩)

/-! READY -/

/-- No move of the block clears READY. -/
theorem BlockMove.ready_stays {s t : State} {evs : List Event} (h : BlockMove s t evs) (hr : s.ready = true) :
    t.ready = true := by
  rcases h.wiring with ⟨_, hkeep⟩ | ⟨_, hset, _⟩
  · rw [hkeep, hr]
  · exact hset

/-- Settles O50: of the steps with READY = 0, only INIT_BUS does not keep READY. -/
theorem onlyInitBusSetsReady : Obligations.OnlyInitBusSetsReady := by
  intro s t h
  constructor
  · intro hr
    rcases step_reads_or_moves h with ⟨o, rfl⟩ | ⟨_, evs, hm⟩
    · exact hr
    · exact hm.ready_stays hr
  · intro hr ht
    rcases step_notReady hr h with ⟨o, rfl⟩ | ⟨code, rfl⟩ | ⟨job, hbusy, rfl⟩ | ⟨⟨rest, hd⟩, hstep⟩
    · exact absurd ht (by simp [hr])
    · exact absurd ht (by simp [hr])
    · obtain ⟨_, _, _, hkeep, _⟩ := continueString_move hbusy
      exact absurd ht (by simp [hkeep, hr])
    · exact ⟨rest, hd, hstep⟩

theorem exec_initBus_sets_ready {s t : State} (hr : s.ready = false) (h : exec .initBus s = .next t) :
    t.ready = true := by
  rw [exec_initBus, accept_initBus hr] at h
  exact (congrArg State.ready (Host.Outcome.next.inj h)).symm

theorem readyInv_of_ready {s : State} (hr : s.ready = true) (hdir : s.lines.dir = .output)
    (hspi : s.lines.spi = { master := some true, mode := some s.cfg.spiMode, order := some .msbFirst }) :
    s.readyInv :=
  ⟨fun _ => ⟨hdir, hspi⟩, fun hn => by rw [hr] at hn; cases hn⟩

/-- With READY = 1 no move emits the events of INIT_BUS, so the wiring stays as it is. -/
theorem readyInv_step_ready {s t : State} (hr : s.ready = true) (hinv : s.readyInv) (h : step s = .next t) :
    t.readyInv := by
  rcases step_reads_or_moves h with ⟨o, rfl⟩ | ⟨_, evs, hm⟩
  · exact hinv
  · obtain ⟨hdir, hspi⟩ := hinv.1 hr
    rcases hm.wiring with ⟨hq, _⟩ | ⟨hnot, _⟩
    · exact readyInv_of_ready (hm.ready_stays hr) (by rw [hm.lines, hq.dir, hdir])
        (by rw [hm.lines, hq.spi, hspi, hm.cfg])
    · rw [hr] at hnot; cases hnot

/-- With READY = 0 a step is silent, unless INIT_BUS configures the lines. -/
theorem readyInv_step_notReady {s t : State} (hr : s.ready = false) (hinv : s.readyInv) (h : step s = .next t) :
    t.readyInv := by
  have ⟨hconf, hsilent⟩ := hinv
  obtain ⟨htrace, hlines, hseq⟩ := hsilent hr
  rcases step_notReady hr h with ⟨o, rfl⟩ | ⟨code, rfl⟩ | ⟨job, hbusy, rfl⟩ | ⟨_, hstep⟩
  · exact hinv
  · exact ⟨hconf, fun _ => ⟨htrace, hlines, .inr rfl⟩⟩
  · simp [hbusy] at hseq
  · have hexec := hstep.symm.trans h
    obtain ⟨u, hu, hm, _⟩ := exec_initBus_move hr
    obtain rfl := Host.Outcome.next.inj (hu.symm.trans hexec)
    exact readyInv_of_ready (exec_initBus_sets_ready hr hexec) (by rw [hm.lines]; rfl)
      (by rw [hm.lines, hm.cfg]; rfl)

/-- Settles O56, by whether READY is set. -/
theorem stepKeepsReadyWithConfiguredLines : Obligations.StepKeepsReadyWithConfiguredLines := by
  intro s t hinv h
  cases hr : s.ready with
  | true => exact readyInv_step_ready hr hinv h
  | false => exact readyInv_step_notReady hr hinv h

/-! Lines, trace and responses -/

/-- Settles O53: a move drives the lines by the very events it appends to the trace. -/
theorem stepKeepsLinesAFunctionOfTheTrace : Obligations.StepKeepsLinesAFunctionOfTheTrace := by
  intro s t hinv h
  rcases step_reads_or_moves h with ⟨o, rfl⟩ | ⟨_, evs, hm⟩
  · exact hinv
  · show t.lines = t.trace.foldl Lines.drive Lines.reset
    rw [hm.lines, hm.trace, List.foldl_append, ← hinv]

/-- However a move ends, it appends to the responses, and RIP does not go back. -/
theorem BlockEnding.grows {s t : State} (h : BlockEnding s t) :
    (∃ rs, t.responses = s.responses ++ rs) ∧ s.rip ≤ t.rip := by
  cases h with
  | fault _ _ _ hresps hrip => exact ⟨⟨[], by simp [hresps]⟩, hrip.ge⟩
  | respond len _ _ _ hresps hrip => exact ⟨⟨_, hresps⟩, by omega⟩
  | busy _ _ _ _ hresps hrip => exact ⟨⟨[], by simp [hresps]⟩, hrip.ge⟩

/-- Settles O51: reading an event adds nothing to the trace, and a move appends what it emits. -/
theorem traceAndRipOnlyGrow : Obligations.TraceAndRipOnlyGrow := by
  intro s t h
  rcases step_reads_or_moves h with ⟨o, rfl⟩ | ⟨_, evs, hm⟩
  · exact ⟨⟨[], by simp⟩, ⟨[], by simp⟩, le_rfl⟩
  · exact ⟨⟨evs, hm.trace⟩, hm.ending.grows⟩

/-! FAULT and RESP -/

/-- A move from a state that is not HALTED ends HALTED exactly with a non-zero FAULT, and FAULT is legal. -/
theorem BlockEnding.fault_legal {s t : State} (h : BlockEnding s t) (hs : s.fault = 0x00) :
    (t.seq = .halted ↔ t.fault ≠ 0x00) ∧ t.fault ∈ [0x00, 0x01, 0x02, 0x03, 0x06] := by
  cases h with
  | fault hseq hcode =>
    have hne : t.fault ≠ 0x00 := fun h0 => by rw [h0] at hcode; revert hcode; decide
    exact ⟨⟨fun _ => hne, fun _ => hseq⟩, List.mem_cons_of_mem _ hcode⟩
  | respond len hseq hfault => simp [hseq, hfault, hs]
  | busy job hseq hfault => simp [hseq, hfault, hs]

/-- A move leaves a legal RESP. -/
theorem BlockEnding.resp_legal {s t : State} (h : BlockEnding s t) (hs : s.resp ∈ [0x00, 0x04, 0x05]) :
    t.resp ∈ [0x00, 0x04, 0x05] := by
  cases h with
  | fault _ _ hresp => rwa [hresp]
  | respond _ _ _ hcode => exact hcode
  | busy _ _ _ hresp => rwa [hresp]

/-- Settles O55: the block moves only while FAULT = 0x00, and a move ends in one of three legal ways. -/
theorem stepKeepsStatusLegal : Obligations.StepKeepsStatusLegal := by
  rintro s t ⟨hhalt, hlegal, hresp, hdef⟩ h
  rcases step_reads_or_moves h with ⟨o, rfl⟩ | ⟨hrun, evs, hm⟩
  · exact ⟨hhalt, hlegal, hresp, hdef⟩
  · have hfault : s.fault = 0x00 := by
      by_contra hne
      exact hrun (hhalt.2 hne)
    obtain ⟨hhalt', hfault'⟩ := hm.ending.fault_legal hfault
    refine ⟨hhalt', hfault', hm.ending.resp_legal hresp, fun hc => ?_⟩
    rw [hm.cfg] at hc
    obtain ⟨hzero, hscan⟩ := hdef hc
    obtain ⟨hresp', hscan'⟩ := hm.default hc hscan
    exact ⟨hresp'.elim id (·.trans hzero), hscan'⟩

/-! RIP -/

theorem instr_len_pos (i : Instr) : 0 < i.len := by
  cases i <;> exact Nat.succ_pos _

/-- A move that leaves the block BUSY leaves RIP where it is: the request has not ended. -/
theorem BlockEnding.rip_of_busy {s t : State} (h : BlockEnding s t) (hb : t.isBusy = true) : t.rip = s.rip := by
  obtain ⟨job, hjob⟩ := t.isBusy_iff.1 hb
  cases h with
  | fault _ _ _ _ hrip => exact hrip
  | respond _ hseq => rw [hseq] at hjob; cases hjob
  | busy _ _ _ _ _ hrip => exact hrip

/-- Settles O58: a request is decoded only when all its bytes are in the stream, and RIP passes over just those. -/
theorem stepKeepsRipInTheStream : Obligations.StepKeepsRipInTheStream := by
  rintro s t ⟨hrip, hbusyRip⟩ h
  cases step_cases h with
  | event ev o hev ht =>
    subst ht
    exact ⟨hrip, hbusyRip⟩
  | fault code hseen hidle hcode ht =>
    subst ht
    exact ⟨hrip, fun hb => by cases hb⟩
  | request i rest hseen hidle hd hreq hlen hexec =>
    obtain ⟨t', evs, he, hm, _, _, hend⟩ := exec_request hreq s
    obtain rfl := Host.Outcome.next.inj (he.symm.trans hexec)
    have hpos := instr_len_pos i
    rw [List.length_drop] at hlen
    unfold State.ripInv
    rw [hm.stream]
    rcases hend with hnext | ⟨hfive, hsame⟩ | ⟨hhalt, hsame⟩
    · exact ⟨by omega, fun hb => by have := hm.ending.rip_of_busy hb; omega⟩
    · exact ⟨by omega, fun _ => by omega⟩
    · exact ⟨by omega, fun hb => by simp [State.isBusy_iff, hhalt] at hb⟩
  | string job hseen hbusy ht =>
    subst ht
    have hfits := hbusyRip (s.isBusy_iff.2 ⟨job, hbusy⟩)
    obtain ⟨evs, hm, _, _, hend⟩ := continueString_move hbusy
    unfold State.ripInv
    rw [hm.stream]
    rcases hend with ⟨hidle, hnext⟩ | ⟨_, hsame⟩
    · exact ⟨by omega, fun hb => by simp [State.isBusy_iff, hidle] at hb⟩
    · exact ⟨by omega, fun _ => by omega⟩

end Sys2Proof.Machine
end

section
/-! SUPPORT. Proofs of the statements about memory (spec 20): the bit order of the bus, TEXT memory and who writes it,
what a step does to the known cells of the surface, and a run of data writes on it. -/

namespace Sys2Proof.Machine

/-- Settles O5: each bit is the one its place in the range names. -/
theorem mosiCarriesTheHighBitFirst : Obligations.MosiCarriesTheHighBitFirst := fun _ => rfl

/-! TEXT memory -/

/-- Settles O46: both halves are laws of the cell lists behind TEXT memory. -/
theorem textReadsBackAsWritten : Obligations.TextReadsBackAsWritten := fun m a a' b hwf =>
  ⟨Memory.write_wf hwf a b, Memory.read_write m a a' b⟩

theorem hostWriteText_idle {s : State} (h : s.seq = .idle) (a : Addr) (b : Byte) :
    s.hostWriteText a b = some { s with text := s.text.write a b } := if_pos h

theorem hostWriteText_notIdle {s : State} (h : s.seq ≠ .idle) (a : Addr) (b : Byte) :
    s.hostWriteText a b = none := if_neg h

/-- Settles O47, by whether SEQ is IDLE. -/
theorem hostWritesTextOnlyWhenIdle : Obligations.HostWritesTextOnlyWhenIdle := by
  intro s a b _
  refine ⟨fun hbusy => hostWriteText_notIdle hbusy a b, fun hidle => ?_⟩
  refine ⟨_, hostWriteText_idle hidle a b, ?_, fun a' hne => ?_, rfl⟩
  · exact (Memory.read_write s.text a a b).trans (if_pos rfl)
  · exact (Memory.read_write s.text a a' b).trans (if_neg hne)

/-- Settles O48: a request makes a move of the block, and any other instruction is a reading of the observer. -/
theorem everyInstructionCompletesAndKeepsItsInputs : Obligations.EveryInstructionCompletesAndKeepsItsInputs := by
  intro i s
  cases hreq : i.isRequest with
  | true =>
    obtain ⟨t, evs, hexec, hm, -⟩ := exec_request hreq s
    exact ⟨t, hexec, hm.cfg, hm.stream, hm.text⟩
  | false =>
    obtain ⟨f, hexec⟩ := exec_controller hreq s
    exact ⟨s.observe f, hexec, s.observe_cfg f, s.observe_stream f, s.observe_text f⟩

/-! The step that reads an event is the reference reading of it -/

theorem nominal_covers (c : Config) (d : Duration) : c.tReset ≤ nominal c d ↔ coversReset c d = true := by
  cases d <;> simp [nominal, coversReset]

/-- An event that carries no byte is read by the rules' cases (44 R154, R155). -/
theorem readLine_eq_after (c : Config) (o : Controller) {ev : Event} (hev : ∀ b, ev ≠ .xfer b) :
    o.readLine c ev = o.after c ev := by
  cases ev with
  | xfer b => exact absurd rfl (hev b)
  | wait d => simp only [Controller.readLine, Controller.after, nominal_covers]
  | rst x => cases x <;> rfl
  | _ => rfl

/-- A byte on no channel is ignored as the rules say (44 R154, R155). -/
theorem ignoreByte_eq_readByte (c : Config) (b : Byte) {o : Controller} (h : o.channel = none) :
    o.ignoreByte = o.readByte c b := by
  unfold Controller.ignoreByte Controller.readByte
  by_cases hcs : o.cs = some .on
  · by_cases hp : o.pulse = .released
    · have hdc : o.dc = none := by
        rw [Controller.channel, if_pos ⟨hcs, hp⟩] at h
        split at h <;> simp_all
      simp [hcs, hp, hdc]
    · simp [hcs, hp]
  · simp [hcs]

/-- A byte has a channel only inside a frame, with RST released, and then DC names it (44 R154, R155). -/
theorem channel_eq_some {o : Controller} {ch : Channel} (h : o.channel = some ch) :
    o.cs = some .on ∧ o.pulse = .released
      ∧ (o.dc = some .cmd ∧ ch = .command o.volPending ∨ o.dc = some .data ∧ ch = .data) := by
  unfold Controller.channel at h
  split at h
  next hframe =>
    refine ⟨hframe.1, hframe.2, ?_⟩
    split at h <;> simp_all
  next => cases h

/-- A reading of the observer that agrees with the rules on a byte of a frame while VALID is the rules' reading of it:
with VALID false neither changes anything (44 R155). -/
theorem observe_eq_readByte {s : State} (hcs : s.lcd.cs = some .on) (hp : s.lcd.pulse = .released) {b : Byte}
    {f : Controller → Controller} (hf : s.lcd.valid = true → f s.lcd = s.lcd.readByte s.cfg b) :
    s.observe f = s.setLcd (s.lcd.readByte s.cfg b) := by
  rw [State.observe_eq]
  cases hv : s.lcd.valid with
  | true => rw [← hf hv]; rfl
  | false => simp [Controller.readByte, hcs, hp, hv, State.setLcd]

/-- What the step makes of a fetch. -/
def Fetched.outcome : Fetched → Host.Outcome State Fault Refusal
  | .instr i s => exec i s
  | .done o => o

theorem step_eq_outcome (s : State) : step s = (fetch s).outcome := by
  unfold step Fetched.outcome
  cases fetch s <;> rfl

/-- A command byte of a frame is read by the ordered cases of 44 R157, as the volume level directly after 0x81. -/
theorem fetchByte_command {s : State} (hch : s.lcd.channel = some (.command s.lcd.volPending)) (b : Byte) :
    ∃ f : Controller → Controller,
      f s.lcd = s.lcd.readCommand b ∧ (fetchByte b s).outcome = .next (s.observe f) := by
  unfold fetchByte
  rw [hch]
  cases hv : s.lcd.volPending with
  | true => exact ⟨_, (if_pos hv).symm, rfl⟩
  | false =>
    cases hd : decodeCommand b with
    | ok i =>
      refine ⟨_, rfl, ?_⟩
      simpa [decode, Except.map, hd, Fetched.outcome] using exec_decodeCommand hd hv
    | error e =>
      refine ⟨_, (readCommand_error hd hv).symm, ?_⟩
      simp [decode, Except.map, hd, Fetched.outcome]

/-- A byte of the bus is read by the rules' cases. -/
theorem fetchByte_outcome (b : Byte) (s : State) :
    (fetchByte b s).outcome = .next (s.setLcd (s.lcd.readByte s.cfg b)) := by
  cases hch : s.lcd.channel with
  | none => rw [← ignoreByte_eq_readByte s.cfg b hch]; simp [fetchByte, hch, Fetched.outcome]
  | some ch =>
    obtain ⟨hcs, hp, ⟨hdc, rfl⟩ | ⟨hdc, rfl⟩⟩ := channel_eq_some hch
    · obtain ⟨f, hf, hout⟩ := fetchByte_command hch b
      rw [hout, observe_eq_readByte hcs hp fun hv => by rw [hf, readByte_frame hcs hp hv, hdc]]
    · rw [← observe_eq_readByte hcs hp (f := Controller.dataByte s.cfg b) fun hv => by
        rw [readByte_frame hcs hp hv, hdc, readData_eq]]
      simp [fetchByte, hch, decode, Fetched.outcome, exec, execData]

/-- With an event unread, the step reads it as the rules say, and changes nothing but the observer and its count. -/
theorem step_event_eq {s : State} {ev : Event} (h : s.trace[s.seen]? = some ev) :
    step s = .next (s.readEvent.setLcd (s.lcd.after s.cfg ev)) := by
  have hfetch : fetch s = fetchEvent s.readEvent ev := by simp [fetch, h]
  rw [step_eq_outcome, hfetch]
  cases ev with
  | xfer b => exact fetchByte_outcome b s.readEvent
  | _ => rw [← readLine_eq_after s.cfg s.lcd (by simp)]; rfl

/-! The known cells stay canonical -/

/-- The canonical form speaks of the cells alone. -/
theorem vramWf_congr {c : Config} {o o' : Controller} (h : o'.vram = o.vram) : o'.vramWf c = o.vramWf c := by
  rw [Controller.vramWf, h, Controller.vramWf]

theorem readCommand_vram (o : Controller) (b : Byte) : (o.readCommand b).vram = o.vram := by
  unfold Controller.readCommand
  simp only [apply_ite Controller.vram, ite_self]

theorem dataByte_vramWf {c : Config} {o : Controller} (h : o.vramWf c = true) (b : Byte) :
    (o.dataByte c b).vramWf c = true := by
  cases hv : o.volPending with
  | true => rw [dataByte_pending hv]; exact h
  | false => rw [dataByte_eq hv]; exact vramAfter_wf h b

theorem readByte_vramWf {c : Config} {o : Controller} (h : o.vramWf c = true) (b : Byte) :
    (o.readByte c b).vramWf c = true := by
  unfold Controller.readByte
  split_ifs
  · exact h
  · exact h
  · exact h
  · split
    · rwa [vramWf_congr (readCommand_vram o b)]
    · rw [readData_eq]; exact dataByte_vramWf h b
    · exact h

/-- Reading any event keeps the known cells canonical: a completed reset leaves none, and a data byte alone adds one. -/
theorem after_vramWf {c : Config} {o : Controller} (h : o.vramWf c = true) (ev : Event) :
    (o.after c ev).vramWf c = true := by
  cases ev with
  | xfer b => exact readByte_vramWf h b
  | rst x =>
    cases x with
    | on => exact h
    | off => simp only [Controller.after]; split_ifs <;> [rfl; exact h]
  | wait d => simp only [Controller.after]; split_ifs <;> exact h
  | _ => exact h

/-- Either the controller reads an event by the rules, or the block makes a move, which leaves the observer alone. -/
theorem step_reads_by_rules_or_moves {s t : State} (h : step s = .next t) :
    (∃ ev, t = s.readEvent.setLcd (s.lcd.after s.cfg ev)) ∨ ∃ evs, BlockMove s t evs := by
  cases step_cases h with
  | event ev o hev _ => exact .inl ⟨ev, Host.Outcome.next.inj (h.symm.trans (step_event_eq hev))⟩
  | fault code _ _ hcode ht => exact .inr ⟨_, ht ▸ raiseFault_move s hcode⟩
  | string job _ hbusy ht =>
    obtain ⟨evs, hm, -⟩ := continueString_move hbusy
    exact .inr ⟨evs, ht ▸ hm⟩
  | request i rest _ _ _ hreq _ hexec =>
    obtain ⟨t', evs, he, hm, -⟩ := exec_request hreq s
    obtain rfl := Host.Outcome.next.inj (he.symm.trans hexec)
    exact .inr ⟨evs, hm⟩

/-- Settles O59: no step writes TEXT memory, and only reading an event touches the known cells. -/
theorem stepKeepsMemoryCanonical : Obligations.StepKeepsMemoryCanonical := by
  rintro s t ⟨htext, hcells⟩ hstep
  rcases step_reads_by_rules_or_moves hstep with ⟨ev, rfl⟩ | ⟨evs, hm⟩
  · exact ⟨htext, after_vramWf hcells ev⟩
  · exact ⟨by rwa [hm.text], by rwa [hm.lcd, hm.cfg]⟩

/-! A run of data writes on the surface -/

theorem cellKey_inj {p p' c c' : Nat} (h : c < 256) (h' : c' < 256) :
    cellKey p' c' = cellKey p c ↔ p' = p ∧ c' = c := by
  unfold cellKey
  omega

/-- A data byte at a known cell of the surface lists itself there. -/
theorem vramAfter_onSurface {c : Config} {o : Controller} {p : Nibble} {col : Nat} (hpage : o.page = some p)
    (hcol : o.column = some col) (hp : p.toNat < c.pages) (hc : col < c.columns) (b : Byte) :
    o.vramAfter c b = cellPut o.vram (cellKey p.toNat col) b := by
  simp [Controller.vramAfter, hpage, hcol, hp, hc]

/-- A data byte at a known cell of the surface changes that cell and no other (44 R151). -/
theorem dataByte_cell {c : Config} {o : Controller} {p : Nibble} {col : Nat} (hvol : o.volPending = false)
    (hpage : o.page = some p) (hcol : o.column = some col) (hp : p.toNat < c.pages) (hc : col < c.columns) (b : Byte)
    {p' c' : Nat} (hc' : c' < 256) :
    (o.dataByte c b).cell p' c' = if p' = p.toNat ∧ c' = col then some b else o.cell p' c' := by
  rw [dataByte_eq hvol, vramAfter_onSurface hpage hcol hp hc]
  simp only [Controller.cell, cellFind_cellPut, cellKey_inj (column_lt hcol) hc']

/-- How a run of data bytes from column `col` of page `p` leaves the observer `o`: byte `k` in column `col + k`, every
other cell as it was, and the column past the run while that is on the surface. -/
structure DataRun (c : Config) (o o' : Controller) (p : Nibble) (col : Nat) (bytes : List Byte) : Prop where
  valid : o'.valid = true
  volPending : o'.volPending = false
  pulse : o'.pulse = .released
  page : o'.page = some p
  cell : ∀ p' c', c' < 256 → o'.cell p' c' =
    if p' = p.toNat ∧ col ≤ c' ∧ c' < col + bytes.length then bytes[c' - col]? else o.cell p' c'
  column : col + bytes.length < c.columns → o'.column = some (col + bytes.length)

/-- The cells of a run and of one more byte after it are those of the longer run. -/
theorem runCell_concat (bytes : List Byte) (b : Byte) (x : Option Byte) (p p' col c' : Nat) :
    (if p' = p ∧ c' = col + bytes.length then some b
      else if p' = p ∧ col ≤ c' ∧ c' < col + bytes.length then bytes[c' - col]? else x)
    = if p' = p ∧ col ≤ c' ∧ c' < col + (bytes ++ [b]).length then (bytes ++ [b])[c' - col]? else x := by
  rw [List.length_append, List.length_singleton]
  by_cases hlast : p' = p ∧ c' = col + bytes.length
  · obtain ⟨rfl, rfl⟩ := hlast
    simp
  · rw [if_neg hlast]
    by_cases hin : p' = p ∧ col ≤ c' ∧ c' < col + bytes.length
    · rw [if_pos hin, if_pos (by omega), List.getElem?_append_left (by omega)]
    · rw [if_neg hin, if_neg (by omega)]

/-- One more data frame on the surface extends the run by one column. -/
theorem DataRun.concat {c : Config} {o o' : Controller} {p : Nibble} {col : Nat} {bytes : List Byte}
    (h : DataRun c o o' p col bytes) (hp : p.toNat < c.pages) (hend : col + bytes.length < c.columns)
    (hcols : c.columns ≤ 256) (b : Byte) :
    DataRun c o (o'.afterAll c (wdEvents b)) p col (bytes ++ [b]) := by
  have hcol := h.column hend
  obtain ⟨hpage', -, hvol', hpulse', hvalid'⟩ := dataByte_frame o' c b
  rw [after_wdEvents h.valid h.pulse c b]
  refine ⟨(hvalid' h.volPending).trans h.valid, hvol'.trans h.volPending, hpulse'.trans h.pulse,
    hpage'.trans h.page, fun p' c' hc' => ?_, fun hlt => ?_⟩
  · have hcell := dataByte_cell h.volPending h.page hcol hp hend b (p' := p') hc'
    rw [h.cell p' c' hc'] at hcell
    exact hcell.trans (runCell_concat bytes b _ _ _ _ _)
  · refine (dataByte_column h.volPending hcols b).trans ?_
    simp only [List.length_append, List.length_singleton] at hlt ⊢
    rw [Controller.nextColumn, hcol]
    exact if_pos (by omega)

/-- Reading a run of data bytes that stays on the surface, by induction on its last byte. -/
theorem dataRun_after {c : Config} {o : Controller} {p : Nibble} {col : Nat} (hv : o.valid = true)
    (hvol : o.volPending = false) (hpulse : o.pulse = .released) (hpage : o.page = some p)
    (hcol : o.column = some col) (hp : p.toNat < c.pages) (hcols : c.columns ≤ 256) {bytes : List Byte}
    (hend : col + bytes.length ≤ c.columns) : DataRun c o (o.afterAll c (bytes.flatMap wdEvents)) p col bytes := by
  induction bytes using List.reverseRecOn with
  | nil =>
    have hnone : ∀ c', ¬ (col ≤ c' ∧ c' < col + ([] : List Byte).length) := by simp
    exact ⟨hv, hvol, hpulse, hpage, fun p' c' _ => (if_neg fun h => hnone c' h.2).symm, fun _ => hcol⟩
  | append_singleton bytes b ih =>
    simp only [List.length_append, List.length_singleton] at hend
    rw [List.flatMap_append, List.flatMap_singleton, afterAll_append]
    exact (ih (by omega)).concat hp (by omega) hcols b

/-- Settles O44: the cells of the run read off its description. -/
theorem dataRunLandsInConsecutiveColumns : Obligations.DataRunLandsInConsecutiveColumns := by
  intro c o p col bytes hv hvol hpulse hpage hcol hp hend hcols
  have hrun := dataRun_after hv hvol hpulse hpage hcol hp hcols hend
  refine ⟨hrun.page, fun k b hb => ?_, fun p' c' hc' hout => ?_, hrun.column⟩
  · have hk : k < bytes.length := (List.getElem?_eq_some_iff.1 hb).1
    rw [hrun.cell _ _ (by omega), if_pos ⟨rfl, by omega, by omega⟩, Nat.add_sub_cancel_left, hb]
  · rw [hrun.cell p' c' hc', if_neg hout]

end Sys2Proof.Machine
end

section
/-! SUPPORT. Proofs of the statements about the encoding (spec 30): that each channel's decoder and the encoder undo
each other, and what a step does with the bytes at RIP: a whole request, a cut-off one, a reserved opcode. -/

namespace Sys2Proof.Machine

/-! Parts of a byte and of an address -/

@[simp] theorem highNibble_append (h l : Nibble) : highNibble (h ++ l) = h := BitVec.extractLsb'_append_eq_left

@[simp] theorem lowNibble_append (h l : Nibble) : lowNibble (h ++ l) = l := BitVec.extractLsb'_append_eq_right

/-- A high nibble put before the low nibble of its byte gives the byte back. -/
theorem append_lowNibble {b : Byte} {h : Nibble} (hh : (highNibble b).toNat = h.toNat) : h ++ lowNibble b = b := by
  rw [← BitVec.eq_of_toNat_eq hh, nibbles_append]

@[simp] theorem addrOfBytes_addrLow_addrHigh (a : Addr) : addrOfBytes (addrLow a) (addrHigh a) = a :=
  BitVec.extractLsb'_append_extractLsb' (w := 8)

@[simp] theorem addrLow_addrOfBytes (lo hi : Byte) : addrLow (addrOfBytes lo hi) = lo :=
  BitVec.extractLsb'_append_eq_right

@[simp] theorem addrHigh_addrOfBytes (lo hi : Byte) : addrHigh (addrOfBytes lo hi) = hi :=
  BitVec.extractLsb'_append_eq_left

/-! Decoding an encoding -/

/-- The request decoder reads back a request's encoding: the address is the one operand of two bytes. -/
theorem decodeRequest_encode {i : Instr} (h : i.isRequest = true) (rest : List Byte) :
    decodeRequest (encode i ++ rest) = .ok (i, rest) := by
  cases i with
  | initBus | initDisplay | setCursor | clearSurface | renderChar | writeCommand | writeData => rfl
  | renderString p c a => simp [encode, decodeRequest]
  | _ => cases h

/-- The bytes of the nibble-operand commands (30 R70): the high nibble selects the command. -/
theorem decodeCommand_nibble (n : Nibble) :
    decodeCommand (0xB#4 ++ n) = .ok (.pageAddr n) ∧ decodeCommand (0x1#4 ++ n) = .ok (.colAddrHi n)
      ∧ decodeCommand (0x0#4 ++ n) = .ok (.colAddrLo n) := by
  simp [decodeCommand]

/-- A command outside the volume pair is one byte, which the command decoder reads back. -/
theorem decodeCommand_encode {i : Instr} (h : i.wellFormed (.command false) = true) :
    ∃ b, encode i = [b] ∧ decodeCommand b = .ok i := by
  cases i with
  | initBus | initDisplay | setCursor | clearSurface | renderChar | renderString | writeCommand | writeData
  | volumeLevel | data => cases h
  | pageAddr p => exact ⟨_, rfl, (decodeCommand_nibble p).1⟩
  | colAddrHi n => exact ⟨_, rfl, (decodeCommand_nibble n).2.1⟩
  | colAddrLo n => exact ⟨_, rfl, (decodeCommand_nibble n).2.2⟩
  | _ => exact ⟨_, rfl, rfl⟩

/-- Settles O1, by the channel; after 0x81 and in a data frame the byte is its own encoding. -/
theorem decodeOfEncode : Obligations.DecodeOfEncode := by
  intro ch i rest h
  cases ch with
  | request => exact decodeRequest_encode h rest
  | command afterVolumeMode =>
    cases afterVolumeMode with
    | true =>
      cases i with
      | volumeLevel v => rfl
      | _ => cases h
    | false =>
      obtain ⟨b, hb, hd⟩ := decodeCommand_encode h
      simp [hb, decode, hd, Except.map]
  | data =>
    cases i with
    | data d => rfl
    | _ => cases h

/-! What a decoder accepts -/

/-- The request decoder accepts only encodings of requests. -/
theorem encode_of_decodeRequest {bs rest : List Byte} {i : Instr} :
    decodeRequest bs = .ok (i, rest) → i.isRequest = true ∧ bs = encode i ++ rest := by
  fun_cases decodeRequest bs with
  | case2 op r hop | case3 op r hop | case4 op p c r hop | case6 op r hop | case7 op a r hop | case11 op b r hop
  | case13 op b r hop =>
    rintro ⟨⟩
    rw [(BitVec.toNat_eq_nat.1 hop).2]
    exact ⟨rfl, rfl⟩
  | case9 op p c l u r hop =>
    rintro ⟨⟩
    rw [(BitVec.toNat_eq_nat.1 hop).2]
    simp [encode, Instr.isRequest]
  | _ => rintro ⟨⟩

/-- The command decoder accepts only encodings of commands outside the volume pair. -/
theorem encode_of_decodeCommand {b : Byte} {i : Instr} :
    decodeCommand b = .ok i → i.wellFormed (.command false) = true ∧ encode i = [b] := by
  fun_cases decodeCommand b with
  | case2 hi | case3 hi | case4 hi =>
    rintro ⟨⟩
    exact ⟨rfl, congrArg ([·]) (append_lowNibble hi)⟩
  | case14 => rintro ⟨⟩
  | _ hi lo =>
    rintro ⟨⟩
    have hb := byte_of_nibbles b
    rw [hi, lo] at hb
    exact ⟨rfl, congrArg ([·]) hb.symm⟩

theorem encode_length (i : Instr) : (encode i).length = i.len := by
  cases i <;> rfl

/-- Any decoder accepts only encodings of what is well formed on its channel. -/
theorem encode_of_decode {ch : Channel} {bs rest : List Byte} {i : Instr} (h : decode ch bs = .ok (i, rest)) :
    i.wellFormed ch = true ∧ bs = encode i ++ rest := by
  match ch, bs, h with
  | .request, _, h => exact encode_of_decodeRequest h
  | .command true, b :: r, h => cases h; exact ⟨rfl, rfl⟩
  | .data, b :: r, h => cases h; exact ⟨rfl, rfl⟩
  | .command false, b :: r, h =>
    cases hd : decodeCommand b with
    | error e => simp [decode, hd, Except.map] at h
    | ok j =>
      simp only [decode, hd, Except.map, Except.ok.injEq, Prod.mk.injEq] at h
      obtain ⟨rfl, rfl⟩ := h
      obtain ⟨hwf, henc⟩ := encode_of_decodeCommand hd
      exact ⟨hwf, by rw [henc]; rfl⟩

/-- Settles O2: what each decoder accepts, with the length of an encoding. -/
theorem decodeAcceptsOnlyEncodings : Obligations.DecodeAcceptsOnlyEncodings := by
  intro ch bs i rest h
  obtain ⟨hwf, hbs⟩ := encode_of_decode h
  exact ⟨hwf, hbs, encode_length i⟩

/-- Settles O3: the decoders compute each word. -/
theorem wordsOfTheSpecDecode : Obligations.WordsOfTheSpecDecode := by
  unfold Obligations.WordsOfTheSpecDecode
  and_intros <;> rfl

/-! The bytes at RIP -/

/-- Settles O6: an idle block with no event unread fetches the request at RIP. -/
theorem stepRunsTheRequestAtRip : Obligations.StepRunsTheRequestAtRip := fun _ _ _ hseen hidle hd =>
  step_request hseen hidle hd

theorem decodeRequest_reserved {op : Byte} (h : op = 0x00 ∨ 0x09 ≤ op.toNat) (rest : List Byte) :
    decodeRequest (op :: rest) = .error (.illegalRequest op) := by
  have hop : op.toNat = 0 ∨ 9 ≤ op.toNat := h.imp_left (congrArg BitVec.toNat)
  generalize hbs : op :: rest = bs
  fun_cases decodeRequest bs with
  | case1 => cases hbs
  | case15 => cases hbs; rfl
  | _ => cases hbs; omega

theorem step_illegal {s : State} {op : Byte} (h : s.trace.length ≤ s.seen) (hs : s.seq = .idle)
    (hd : decode .request (s.stream.drop s.rip) = .error (.illegalRequest op)) :
    step s = .next (s.raiseFault codeIllegalRequest) := by
  simp [step, fetch_idle h hs, fetchRequest, hd]

/-- Settles O9: the decoder refuses the opcode before any READY check. -/
theorem reservedOpcodeFaults : Obligations.ReservedOpcodeFaults := by
  intro s op rest hseen hidle hstream hop
  have hd : decode .request (s.stream.drop s.rip) = .error (.illegalRequest op) := by
    rw [hstream]
    exact decodeRequest_reserved hop rest
  exact step_illegal hseen hidle hd

/-- An opcode that asks for more operand bytes than follow it (30 R61, R69). -/
theorem decodeRequest_cutOff {op : Byte} {rest : List Byte}
    (h : op = 0x03 ∧ rest.length < 2 ∨ op = 0x05 ∧ rest.length < 1 ∨ op = 0x06 ∧ rest.length < 4
      ∨ op = 0x07 ∧ rest.length < 1 ∨ op = 0x08 ∧ rest.length < 1) :
    decodeRequest (op :: rest) = .error (.truncatedRequest op) := by
  rcases h with ⟨rfl, hlen⟩ | ⟨rfl, hlen⟩ | ⟨rfl, hlen⟩ | ⟨rfl, hlen⟩ | ⟨rfl, hlen⟩
  · match rest, hlen with
    | [], _ | [_], _ => rfl
  · match rest, hlen with
    | [], _ => rfl
  · match rest, hlen with
    | [], _ | [_], _ | [_, _], _ | [_, _, _], _ => rfl
  · match rest, hlen with
    | [], _ => rfl
  · match rest, hlen with
    | [], _ => rfl

theorem truncatedFault_ready {s : State} {op : Byte} (hop : op ≠ 0x01) (hr : s.ready = true) :
    truncatedFault op s = s.raiseFault 0x06 := by
  rw [truncatedFault, beq_eq_false_iff_ne.2 hop, hr]
  rfl

/-- Settles O12: the opcode is not INIT_BUS's, so with READY = 1 its READY check passes. -/
theorem truncatedRequestFaults : Obligations.TruncatedRequestFaults := by
  intro s op rest hseen hidle hstream hr hcut
  have hd : decode .request (s.stream.drop s.rip) = .error (.truncatedRequest op) := by
    rw [hstream]
    exact decodeRequest_cutOff hcut
  have hne : op ≠ 0x01 := by
    rintro rfl
    simp at hcut
  exact (step_truncated hseen hidle hd).trans (congrArg _ (truncatedFault_ready hne hr))

end Sys2Proof.Machine
end

section
/-! SUPPORT. Proofs of the statements about the bus transport (spec 41): the lines between steps, and INIT_BUS. -/

namespace Sys2Proof.Machine

/-! The lines at rest -/

/-- The events of INIT_BUS set the direction of the lines and SPI_CFG, and drive neither CS, DC nor RST (41 R84). -/
theorem drive_busSetup (c : Config) (l : Lines) :
    (busSetup c).foldl Lines.drive l = { l with
      dir := .output
      spi := { master := some true, mode := some c.spiMode, order := some .msbFirst } } :=
  rfl

/-- A move that emits the events of a request closes each frame and each reset pulse it opens, and INIT_BUS opens
none. -/
theorem BlockMove.keeps_linesAtRest {s t : State} {evs : List Event} (h : BlockMove s t evs) (hrest : s.linesAtRest) :
    t.linesAtRest := by
  obtain ⟨hcs, hrst⟩ := hrest
  unfold State.linesAtRest
  rw [h.lines]
  rcases h.wiring with ⟨hquiet, _⟩ | ⟨_, _, rfl⟩
  · exact ⟨hquiet.cs _ hcs, hquiet.rst _ hrst⟩
  · rw [drive_busSetup]
    exact ⟨hcs, hrst⟩

/-- Settles O54: reading an event leaves the lines alone, and a move of the block leaves them at rest. -/
theorem stepKeepsLinesAtRest : Obligations.StepKeepsLinesAtRest := by
  intro s t hrest h
  rcases step_reads_or_moves h with ⟨o, rfl⟩ | ⟨_, evs, hm⟩
  · exact hrest
  · exact hm.keeps_linesAtRest hrest

/-! INIT_BUS -/

/-- Settles O17, by its READY check: the fault, or the setup events with the value drawn for SPI_STATUS. -/
theorem initBusConfiguresTheBus : Obligations.InitBusConfiguresTheBus := by
  intro s
  constructor
  · intro hr
    exact (exec_initBus s).trans (accept_initBus_ready hr _)
  · intro hr
    exact ⟨Config.freeSpiStatus s.draws, s.draws + 1, (exec_initBus s).trans (accept_initBus hr _)⟩

end Sys2Proof.Machine
end

section
/-! SUPPORT. Proofs of the statements about the command protocol (spec 42): that every trace stays well framed, what
each of its requests sends, and the surface after INIT_DISPLAY. -/

namespace Sys2Proof.Machine

/-! The shape of a trace -/

/-- Whatever a move emits is well framed: the events of a request are, and INIT_BUS opens no frame. -/
theorem BlockMove.framed {s t : State} {evs : List Event} (h : BlockMove s t evs) : wellFramed evs = true := by
  rcases h.wiring with ⟨hquiet, _⟩ | ⟨_, _, rfl⟩
  · exact hquiet.framed
  · rfl

/-- Settles O57: reading an event adds nothing to the trace, and a move appends well-framed events to it. -/
theorem stepKeepsTheTraceFramed : Obligations.StepKeepsTheTraceFramed := by
  intro s t hframed h
  rcases step_reads_or_moves h with ⟨o, rfl⟩ | ⟨_, evs, hm⟩
  · exact hframed
  · rw [hm.trace]
    exact wellFramed_append hframed hm.framed

/-! The address multiplexer -/

/-- The word of a format with a nibble operand is the format's high nibble or-ed with the masked byte (30 R70). -/
theorem nibble_append_lowNibble (h : Nibble) (b : Byte) : h ++ lowNibble b = (h ++ 0#4) ||| (b &&& 0x0F) := by
  have hmask : b &&& 0x0F = 0#4 ++ lowNibble b := by revert b; decide
  rw [hmask, BitVec.or_append]
  simp

/-- Settles O4: each command byte is the format's nibble over the operand's, the high one shifted down. -/
theorem cursorBytesAreAddressCommands : Obligations.CursorBytesAreAddressCommands := by
  intro p c
  have hshift : lowNibble (c >>> 4) = highNibble c := by revert c; decide
  refine ⟨?_, ?_, ?_⟩ <;> refine congrArg (fun b => [b]) ?_
  · exact (nibble_append_lowNibble 0xB p).symm
  · have h := nibble_append_lowNibble 0x1 (c >>> 4)
    rw [hshift] at h
    exact h.symm
  · exact (nibble_append_lowNibble 0x0 c).symm

/-! The requests -/

/-- Settles O18: the READY check passes, and the request is the command frame of its operand. -/
theorem writeCommandSendsTheByte : Obligations.WriteCommandSendsTheByte := fun s b hr =>
  (exec_writeCommand b s).trans (accept_ready hr _)

/-- Settles O19: the READY check passes, and the request is the data frame of its operand. -/
theorem writeDataSendsTheByte : Obligations.WriteDataSendsTheByte := fun s b hr =>
  (exec_writeData b s).trans (accept_ready hr _)

theorem emit_displaySetup (s : State) : s.emit displaySetup = { s with
    trace := s.trace ++ displaySetup
    lines := { s.lines with dc := some .data, cs := some .off, rst := some .off } } := by
  rw [State.emit, drive_displaySetup]

/-- Settles O20, by its READY check: the fault, or the setup events with the value drawn for INIT_IDX. -/
theorem initDisplaySendsTheSequence : Obligations.InitDisplaySendsTheSequence := by
  intro s
  constructor
  · intro hr
    exact (exec_initDisplay s).trans (accept_notReady hr _)
  · intro hr
    refine ⟨Config.freeInitIdx s.draws, s.draws + 1, (exec_initDisplay s).trans ((accept_ready hr _).trans ?_)⟩
    rw [emit_displaySetup]
    rfl

theorem offSurfaceOperands_iff (c : Config) (p col : Byte) :
    offSurfaceOperands c p col = true ↔ c.pages ≤ p.toNat ∨ c.columns ≤ col.toNat := by
  simp [offSurfaceOperands]

/-- Settles O21: neither the default mode nor the surface refuses the operands, and the multiplexer's events follow. -/
theorem setCursorSendsTheAddress : Obligations.SetCursorSendsTheAddress := by
  intro s p c hr hsurface
  have hpass : ¬ (s.cfg.checkedMode && offSurfaceOperands s.cfg p c) = true := by
    rw [Bool.and_eq_true, offSurfaceOperands_iff]
    rintro ⟨hchecked, hoff⟩
    rcases hsurface with hdefault | ⟨hp, hc⟩
    · rw [hdefault] at hchecked
      cases hchecked
    · omega
  refine (exec_setCursor p c s).trans ((accept_ready hr _).trans ?_)
  rw [if_neg hpass, cursorWrite_eq, State.emit, drive_cursorEvents]
  rfl

/-- Settles O22: with the check's condition met, each request only latches its operands and responds. -/
theorem checkedModeRespondsWithoutEvents : Obligations.CheckedModeRespondsWithoutEvents := by
  intro s hr hchecked
  constructor
  · intro p c hoff
    refine (exec_setCursor p c s).trans ((accept_ready hr _).trans ?_)
    rw [if_pos (Bool.and_eq_true_iff.2 ⟨hchecked, (offSurfaceOperands_iff s.cfg p c).2 hoff⟩)]
    rfl
  · intro a hout
    have hunsupported : unsupportedGlyph s.cfg a = true := decide_eq_true hout
    refine (exec_renderChar a s).trans ((accept_ready hr _).trans ?_)
    rw [if_pos (Bool.and_eq_true_iff.2 ⟨hchecked, hunsupported⟩)]
    rfl

/-! The surface after INIT_DISPLAY -/

/-- The preamble holds a reset pulse and completes it, whatever was read before: VALID, everything else unknown, and
the lines CS and DC as they were (42 R95, 44 R154). -/
theorem after_preamble (c : Config) (o : Controller) :
    o.afterAll c preamble = { Controller.initial with valid := true, cs := o.cs, dc := o.dc } := by
  have hwait : ∃ q, o.after c (.wait .power) = { o with pulse := q } := by
    by_cases h : o.pulse = .asserted ∧ coversReset c .power = true
    · exact ⟨.held, if_pos h⟩
    · exact ⟨o.pulse, if_neg h⟩
  obtain ⟨q, hq⟩ := hwait
  have hsplit : o.afterAll c preamble
      = (o.after c (.wait .power)).afterAll c [.rst .on, .wait .reset, .rst .off] := rfl
  rw [hsplit, hq]
  rfl

/-- A cell beyond every listed one is listed last. -/
theorem cellPut_of_lt {m : List Host.Cell} {a : Nat} (h : ∀ x ∈ m, x.1 < a) (v : Byte) :
    cellPut m a v = m ++ [(a, v)] := by
  induction m with
  | nil => rfl
  | cons x rest ih =>
    obtain ⟨hx, hrest⟩ := List.forall_mem_cons.1 h
    simp [cellPut, ih hrest, Nat.not_lt.2 hx.le, hx.ne']

/-- The observer once INIT_DISPLAY has sent its commands and `n` of its fill bytes, the last frame in mode `m`. -/
def Controller.filled (m : Mode) (n : Nat) : Controller where
  valid := true
  page := some 0
  colHi := some 0
  colLo := some (BitVec.ofNat 4 n)
  vram := (List.range n).map fun k => (k, 0xFF)
  regs := {
    adc := some 0xA0, display := some 0xAF, comDir := some 0xC8, bias := some 0xA3, power := some 0x2F
    ratio := some 0x26, volume := some 0x07, allPoints := some 0xA4, startLine := some 0x40 }
  volPending := false
  cs := some .off
  dc := some m
  pulse := .released

/-- The command sequence, read by an observer that a reset has made VALID, records the configuration and places the
cursor at page 0, column 0 (42 R96). -/
theorem after_initCommands (c : Config) (x : Option Switch) (m : Option Mode) :
    ({ Controller.initial with valid := true, cs := x, dc := m } : Controller).afterAll c
      (initCommands.flatMap commandWrite) = .filled .cmd 0 :=
  after_commands (o := { Controller.initial with valid := true, cs := x, dc := m }) rfl rfl (by decide) c

/-- One fill byte at column `n` of page 0 lists its cell and moves the column on, while that stays below COLUMNS (44
R151). -/
theorem after_fillByte {c : Config} (hpages : 1 ≤ c.pages) (hcolumns : 6 ≤ c.columns) (m : Mode) {n : Nat}
    (hn : n < 5) : (Controller.filled m n).afterAll c (wdEvents 0xFF) = .filled .data (n + 1) := by
  have hcol : (Controller.filled m n).column = some n := by
    interval_cases n <;> rfl
  have hnext : (Controller.filled m n).nextColumn c = some (n + 1) := by
    rw [Controller.nextColumn, hcol]
    exact if_pos (by omega)
  have hcells : (Controller.filled m n).vramAfter c 0xFF = (Controller.filled m (n + 1)).vram := by
    rw [vramAfter_onSurface (p := 0) rfl hcol hpages (by omega)]
    have hlast : ∀ x ∈ (Controller.filled m n).vram, x.1 < cellKey 0 n := by
      simp [Controller.filled, cellKey]
    refine (cellPut_of_lt hlast 0xFF).trans ?_
    simp [Controller.filled, cellKey, List.range_succ]
  have hhigh : highNibble (BitVec.ofNat 8 (n + 1)) = 0 := by interval_cases n <;> decide
  have hlow : lowNibble (BitVec.ofNat 8 (n + 1)) = BitVec.ofNat 4 (n + 1) := (nibbles_of_column _).2.symm
  rw [after_wdEvents rfl rfl, dataByte_eq rfl, hnext, hcells, Option.map_some, Option.map_some, hhigh, hlow]
  rfl

/-- The fill bytes, by induction on how many have been sent. -/
theorem after_fill {c : Config} (hpages : 1 ≤ c.pages) (hcolumns : 6 ≤ c.columns) {n : Nat} (hn : n < 5) :
    (Controller.filled .cmd 0).afterAll c ((List.replicate (n + 1) 0xFF).flatMap wdEvents) = .filled .data (n + 1) := by
  induction n with
  | zero => exact after_fillByte hpages hcolumns .cmd hn
  | succ n ih =>
    rw [List.replicate_succ', List.flatMap_append, List.flatMap_singleton, afterAll_append, ih (by omega)]
    exact after_fillByte hpages hcolumns .data hn

/-- Settles O43: the preamble makes the observer VALID, the commands configure it and place the cursor, and the fill
bytes land one by one. -/
theorem initDisplayOnTheSurface : Obligations.InitDisplayOnTheSurface := by
  intro c o hwf hcolumns
  have hpages : 1 ≤ c.pages := by
    simp only [Config.wf, Bool.and_eq_true, decide_eq_true_eq] at hwf
    omega
  rw [displaySetup, afterAll_append, afterAll_append, after_preamble, after_initCommands]
  exact after_fill hpages hcolumns (n := 4) (by omega)

end Sys2Proof.Machine
end

section
/-! SUPPORT. Proofs of the statements about rendering (spec 43), one step at a time: the sweep of CLEAR_SURFACE, the
glyph of RENDER_CHAR, and the steps of RENDER_STRING. -/

namespace Sys2Proof.Machine

/-! The bounds of the parameters and the events of a sweep -/

/-- The bounds of 00 R5, taken apart. -/
structure WithinBounds (c : Config) : Prop where
  pages_pos : 1 ≤ c.pages
  pages_le : c.pages ≤ 15
  glyphWidth_pos : 1 ≤ c.glyphWidth
  columns_pos : 1 ≤ c.columns
  columns_le : c.columns ≤ 256
  rom_length : c.glyphRom.length = c.glyphCount

theorem withinBounds_of_wf {c : Config} (h : c.wf = true) : WithinBounds c := by
  simp only [Config.wf, Bool.and_eq_true, decide_eq_true_eq] at h
  constructor <;> omega

/-- The sweep of one page is one cursor positioning and a run of zero bytes. -/
theorem pageSweep_eq_cursor_run (c : Config) (p : Nat) : pageSweep c p
    = cursorEvents (BitVec.ofNat 8 p) 0 ++ (List.replicate c.columns 0x00).flatMap wdEvents := by
  rw [pageSweep, cursorWrite_eq]
  rfl

theorem emit_surfaceSweep (s : State) (h : 1 ≤ s.cfg.columns) : s.emit (surfaceSweep s.cfg) = { s with
    trace := s.trace ++ surfaceSweep s.cfg
    lines := { s.lines with dc := some .data, cs := some .off } } := by
  rw [State.emit, drive_surfaceSweep h]

theorem exec_clearSurface_ready {s : State} (hr : s.ready = true) :
    exec .clearSurface s = .next ((s.emit (surfaceSweep s.cfg)).forgetSweep.respond respOk 1) :=
  (exec_clearSurface s).trans (accept_ready hr _)

/-- Settles O23, by its READY check: the fault, or the sweep with the values drawn for the two counters. -/
theorem clearSurfaceSweepsEveryPage : Obligations.ClearSurfaceSweepsEveryPage := by
  intro s hwf
  have hb := withinBounds_of_wf hwf
  constructor
  · intro hr
    exact (exec_clearSurface s).trans (accept_notReady hr _)
  · intro hr
    refine ⟨Config.freeCntPage s.draws, Config.freeCntCol s.draws, s.draws + 1,
      (exec_clearSurface_ready hr).trans ?_⟩
    rw [emit_surfaceSweep s hb.columns_pos, surfaceSweep_eq hb.pages_le]
    rfl

/-! Counting the events of a sweep -/

/-- A predicate that holds of `k` events of every page's sweep holds of `(PAGES + 1) * k` events of the whole. -/
theorem countP_surfaceSweep (c : Config) (q : Event → Bool) {k : Nat} (h : ∀ p, (pageSweep c p).countP q = k) :
    (surfaceSweep c).countP q = (c.pages + 1) * k := by
  simp [surfaceSweep, List.countP_flatMap, Function.comp_def, h]

/-- The events of one page's sweep that satisfy a predicate: those of the cursor, and COLUMNS times those of a zero
byte's frame. -/
theorem countP_pageSweep (c : Config) (q : Event → Bool) (p : Nat) : (pageSweep c p).countP q
    = (cursorEvents (BitVec.ofNat 8 p) 0).countP q + c.columns * (wdEvents 0x00).countP q := by
  simp [pageSweep_eq_cursor_run, List.countP_append, List.countP_flatMap]

/-- Settles O24: each page is swept by 3 command frames and COLUMNS data frames. -/
theorem clearSurfaceEventCount : Obligations.ClearSurfaceEventCount := by
  intro s hr
  have hall : ∀ p, (pageSweep s.cfg p).countP (fun _ => true) = 15 + s.cfg.columns * 4 := countP_pageSweep _ _
  have hdata : ∀ p, (pageSweep s.cfg p).countP (· == .dc .data) = 0 + s.cfg.columns * 1 := countP_pageSweep _ _
  have hcommand : ∀ p, (pageSweep s.cfg p).countP (· == .dc .cmd) = 3 + s.cfg.columns * 0 := countP_pageSweep _ _
  refine ⟨_, _, exec_clearSurface_ready hr, rfl, ?_, ?_, ?_⟩
  · rw [← List.countP_true, countP_surfaceSweep _ _ hall, Nat.mul_comm 4]
  · rw [← List.countP_eq_length_filter, countP_surfaceSweep _ _ hdata, Nat.zero_add, Nat.mul_one]
  · rw [← List.countP_eq_length_filter, countP_surfaceSweep _ _ hcommand, Nat.mul_zero]

/-! Drawing one glyph -/

/-- Drawing a glyph sends its bytes, at least one of them. -/
theorem renderGlyph_eq (s : State) (a : Byte) (h : 1 ≤ s.cfg.glyphWidth) : s.renderGlyph a = { s with
    trace := s.trace ++ (glyphBytes s.cfg s.draws (glyphIndex a)).flatMap wdEvents
    lines := { s.lines with dc := some .data, cs := some .off }
    cntGlyph := glyphLoopEnd s.cfg.glyphWidth s.draws
    draws := s.draws + s.cfg.glyphWidth } := by
  have hne : glyphBytes s.cfg s.draws (glyphIndex a) ≠ [] := by
    rw [← List.length_pos_iff, glyphBytes_length]
    exact h
  rw [State.renderGlyph, State.emit, glyphWrite_eq, drive_dataRun, if_neg hne]

/-- RENDER_CHAR of a code that no check refuses: the bytes read for its glyph. -/
theorem exec_renderChar_accepted {s : State} {a : Byte} (hr : s.ready = true) (hwf : s.cfg.wf = true)
    (hpass : s.cfg.checkedMode = false ∨ glyphIndex a < s.cfg.glyphCount) :
    ∃ v n, exec (.renderChar a) s = .next { s with
      opChar := a
      trace := s.trace ++ (glyphBytes s.cfg s.draws (glyphIndex a)).flatMap wdEvents
      lines := { s.lines with dc := some .data, cs := some .off }
      cntGlyph := v, draws := n
      resp := 0x00, responses := s.responses ++ [0x00], rip := s.rip + 2, seq := .idle } := by
  have hcheck : ¬ (s.cfg.checkedMode && unsupportedGlyph s.cfg a) = true := by
    rw [Bool.and_eq_true, unsupportedGlyph, decide_eq_true_eq]
    rintro ⟨hchecked, hout⟩
    rcases hpass with hdefault | hin
    · rw [hdefault] at hchecked
      cases hchecked
    · omega
  refine ⟨Config.freeCntGlyph (s.draws + s.cfg.glyphWidth), s.draws + s.cfg.glyphWidth + 1,
    (exec_renderChar a s).trans ((accept_ready hr _).trans ?_)⟩
  rw [if_neg hcheck, renderGlyph_eq (s.latchChar a) a (withinBounds_of_wf hwf).glyphWidth_pos]
  rfl

/-- A code whose glyph the ROM lists is in the table. -/
theorem glyphIndex_lt_of_rom {c : Config} (hwf : c.wf = true) {a : Byte} {glyph : List Byte}
    (h : c.glyphRom[glyphIndex a]? = some glyph) : glyphIndex a < c.glyphCount :=
  (withinBounds_of_wf hwf).rom_length ▸ (List.getElem?_eq_some_iff.1 h).1

/-- Settles O25: the code is in the table, where the bytes read are the table bytes. -/
theorem renderCharSendsTheGlyph : Obligations.RenderCharSendsTheGlyph := by
  intro s a glyph hr hwf hglyph
  have h := exec_renderChar_accepted hr hwf (.inr (glyphIndex_lt_of_rom hwf hglyph))
  rwa [glyphBytes_inTable hwf s.draws (glyphIndex a) hglyph] at h

/-- Settles O26: the default mode checks nothing, and the loop reads GLYPH_WIDTH bytes. -/
theorem renderCharOutOfTableCompletes : Obligations.RenderCharOutOfTableCompletes := by
  intro s a hr hwf hdefault _
  obtain ⟨v, n, h⟩ := exec_renderChar_accepted (a := a) hr hwf (.inl hdefault)
  exact ⟨_, v, n, glyphBytes_length _ _ _, h⟩

/-! The steps of a RENDER_STRING -/

theorem startDrawing_eq (s : State) : s.startDrawing = { s with
    textPtr := s.opAddr, seq := .busy .draw
    trace := s.trace ++ cursorEvents s.opPage s.opCol
    lines := { s.lines with dc := some .cmd, cs := some .off } } := by
  rw [State.startDrawing, State.emit, cursorWrite_eq, drive_cursorEvents]

/-- The operands of a RENDER_STRING, latched. -/
def State.latchString (p c : Byte) (a : Addr) (s : State) : State := (s.latchCursor p c).latchAddr a

theorem exec_renderString_default {s : State} (hr : s.ready = true) (hmode : s.cfg.checkedMode = false) (p c : Byte)
    (a : Addr) : exec (.renderString p c a) s = .next (s.latchString p c a).startDrawing :=
  (exec_renderString p c a s).trans ((accept_ready hr _).trans (congrArg _ (if_neg (by simp [hmode]))))

theorem exec_renderString_checked {s : State} (hr : s.ready = true) (hmode : s.cfg.checkedMode = true) (p c : Byte)
    (a : Addr) : exec (.renderString p c a) s
      = .next { s.latchString p c a with textPtr := a, seq := .busy (.scan 0 false) } :=
  (exec_renderString p c a s).trans ((accept_ready hr _).trans (congrArg _ (if_pos hmode)))

/-- Settles O27, by the mode. -/
theorem renderStringStarts : Obligations.RenderStringStarts := by
  intro s p c a hr
  constructor
  · intro hmode
    rw [exec_renderString_default hr hmode, startDrawing_eq]
    rfl
  · intro hmode
    exact exec_renderString_checked hr hmode p c a

theorem drawNext_char {s : State} (hch : s.text.read s.textPtr ≠ 0x00) :
    s.drawNext = { s.renderGlyph (s.text.read s.textPtr) with textPtr := s.textPtr + 1 } := if_neg hch

theorem drawNext_terminator {s : State} (hch : s.text.read s.textPtr = 0x00) :
    s.drawNext = s.forgetGlyph.forgetTextPtr.respond respOk 5 := if_pos hch

theorem scanNext_char {s : State} (hch : s.text.read s.textPtr ≠ 0x00) (n : Nat) (bad : Bool) :
    s.scanNext n bad = { s with
      textPtr := s.textPtr + 1
      seq := .busy (.scan (n + 1) (bad || unsupportedGlyph s.cfg (s.text.read s.textPtr))) } := if_neg hch

/-! At the terminator of a string read ahead the address is checked, then the glyphs, and a string that passes is
drawn. -/

theorem scanNext_outOfRange {s : State} (hch : s.text.read s.textPtr = 0x00) {n : Nat}
    (hrange : stringOutOfRange s.cfg s.opPage s.opCol n = true) (bad : Bool) :
    s.scanNext n bad = s.forgetTextPtr.respond respOutOfRangeAddress 5 :=
  (if_pos hch).trans (if_pos hrange)

theorem scanNext_unsupported {s : State} (hch : s.text.read s.textPtr = 0x00) {n : Nat}
    (hrange : ¬ stringOutOfRange s.cfg s.opPage s.opCol n = true) :
    s.scanNext n true = s.forgetTextPtr.respond respUnsupportedGlyph 5 :=
  (if_pos hch).trans ((if_neg hrange).trans (if_pos rfl))

theorem scanNext_passed {s : State} (hch : s.text.read s.textPtr = 0x00) {n : Nat}
    (hrange : ¬ stringOutOfRange s.cfg s.opPage s.opCol n = true) : s.scanNext n false = s.startDrawing :=
  (if_pos hch).trans ((if_neg hrange).trans (if_neg Bool.false_ne_true))

/-! The drawing steps -/

theorem step_draw_char {s : State} (hseen : s.trace.length ≤ s.seen) (hseq : s.seq = .busy .draw)
    (hch : s.text.read s.textPtr ≠ 0x00) :
    step s = .next { s.renderGlyph (s.text.read s.textPtr) with textPtr := s.textPtr + 1 } :=
  (step_busy hseen hseq).trans (congrArg _ (drawNext_char hch))

theorem step_draw_terminator {s : State} (hseen : s.trace.length ≤ s.seen) (hseq : s.seq = .busy .draw)
    (hch : s.text.read s.textPtr = 0x00) : step s = .next (s.forgetGlyph.forgetTextPtr.respond respOk 5) :=
  (step_busy hseen hseq).trans (congrArg _ (drawNext_terminator hch))

/-- Settles O28: the character is in the table, where the bytes read are the table bytes. -/
theorem drawingStepSendsTheCharacter : Obligations.DrawingStepSendsTheCharacter := by
  intro s glyph hseen hseq hwf hch hglyph
  have h := step_draw_char hseen hseq hch
  rw [renderGlyph_eq s _ (withinBounds_of_wf hwf).glyphWidth_pos,
    glyphBytes_inTable hwf s.draws (glyphIndex (s.text.read s.textPtr)) hglyph] at h
  exact ⟨_, _, h⟩

/-- Settles O29: the two counters the request used are drawn anew. -/
theorem drawingStepEndsAtTheTerminator : Obligations.DrawingStepEndsAtTheTerminator := by
  intro s hseen hseq hch
  exact ⟨_, _, _, step_draw_terminator hseen hseq hch⟩

end Sys2Proof.Machine
end

section
/-! SUPPORT. Proofs of the statements about the runs of a RENDER_STRING (spec 43): that it sends its whole
string, is refused with no event, or never ends. -/

namespace Sys2Proof.Machine

/-! Reading events and walking along TEXT -/

/-- The state once the controller has read every event, with the observer `o` that leaves. -/
def State.allRead (o : Controller) (s : State) : State := { s with seen := s.trace.length, lcd := o }

section AllRead

variable (o : Controller) (s : State)

@[simp] theorem State.allRead_cfg : (s.allRead o).cfg = s.cfg := rfl
@[simp] theorem State.allRead_text : (s.allRead o).text = s.text := rfl
@[simp] theorem State.allRead_seq : (s.allRead o).seq = s.seq := rfl
@[simp] theorem State.allRead_ready : (s.allRead o).ready = s.ready := rfl
@[simp] theorem State.allRead_fault : (s.allRead o).fault = s.fault := rfl
@[simp] theorem State.allRead_rip : (s.allRead o).rip = s.rip := rfl
@[simp] theorem State.allRead_textPtr : (s.allRead o).textPtr = s.textPtr := rfl
@[simp] theorem State.allRead_trace : (s.allRead o).trace = s.trace := rfl
@[simp] theorem State.allRead_responses : (s.allRead o).responses = s.responses := rfl
@[simp] theorem State.allRead_seen : (s.allRead o).seen = s.trace.length := rfl

end AllRead

/-- The controller catches up with whatever events are unread. -/
theorem run_allRead {s : State} (h : s.seen ≤ s.trace.length) :
    ∃ k o, Sys2Proof.core.run k s = .next (s.allRead o) :=
  ⟨_, run_drain _ (Nat.add_sub_cancel' h).symm⟩

/-- TEXT_PTR moves on by one place, modulo 2^16. -/
theorem textPtr_succ (a : Addr) (n : Nat) : a + BitVec.ofNat 16 n + 1 = a + BitVec.ofNat 16 (n + 1) := by
  rw [BitVec.ofNat_add, BitVec.add_assoc]
  rfl

/-- The first `n + 1` characters are in the table when the first `n` are and the next one is. -/
theorem stringInTable_succ (c : Config) (m : Memory) (a : Addr) (n : Nat) :
    stringInTable c m a (n + 1) ↔ stringInTable c m a n ∧ glyphIndex (textAt m a n) < c.glyphCount :=
  Nat.forall_lt_succ_right

/-- The table bytes of a string grow by the bytes read for the next character, if it is in the table. -/
theorem stringGlyphBytes_succ {c : Config} (hwf : c.wf = true) {m : Memory} {a : Addr} {n : Nat}
    (h : glyphIndex (textAt m a n) < c.glyphCount) (d : Nat) :
    stringGlyphBytes c m a (n + 1) = stringGlyphBytes c m a n ++ glyphBytes c d (glyphIndex (textAt m a n)) := by
  have hrom : glyphIndex (textAt m a n) < c.glyphRom.length := (withinBounds_of_wf hwf).rom_length ▸ h
  rw [stringGlyphBytes, List.range_succ, List.flatMap_append, List.flatMap_singleton,
    glyphBytes_inTable hwf d _ (List.getElem?_eq_getElem hrom), List.getElem?_eq_getElem hrom, Option.getD_some]
  rfl

/-! Drawing a whole string -/

/-- How a drawing state `s` stands, as `u`, once `n` characters have been drawn with the data bytes `bytes` and every
event has been read. -/
structure Drawn (s u : State) (n : Nat) (bytes : List Byte) : Prop where
  seq : u.seq = .busy .draw
  caughtUp : u.caughtUp
  cfg : u.cfg = s.cfg
  text : u.text = s.text
  textPtr : u.textPtr = s.textPtr + BitVec.ofNat 16 n
  responses : u.responses = s.responses
  rip : u.rip = s.rip
  fault : u.fault = s.fault
  ready : u.ready = s.ready
  trace : u.trace = s.trace ++ bytes.flatMap wdEvents
  length : bytes.length = s.cfg.glyphWidth * n
  inTable : stringInTable s.cfg s.text s.textPtr n → bytes = stringGlyphBytes s.cfg s.text s.textPtr n

theorem Drawn.start {s : State} (hseq : s.seq = .busy .draw) (hseen : s.caughtUp) : Drawn s s 0 [] :=
  ⟨hseq, hseen, rfl, rfl, (BitVec.add_zero _).symm, rfl, rfl, rfl, rfl, (List.append_nil _).symm, rfl, fun _ => rfl⟩

theorem Drawn.read {s u : State} {n : Nat} {bytes : List Byte} (h : Drawn s u n bytes) :
    u.text.read u.textPtr = textAt s.text s.textPtr n := by
  rw [h.text, h.textPtr, textAt]

/-- One more character: a drawing step, and the controller reads its data writes. -/
theorem Drawn.next {s u : State} {n : Nat} {bytes : List Byte} (h : Drawn s u n bytes) (hwf : s.cfg.wf = true)
    (hch : textAt s.text s.textPtr n ≠ 0x00) :
    ∃ (k : Nat) (v : State) (bytes' : List Byte), Sys2Proof.core.run k u = .next v ∧ Drawn s v (n + 1) bytes' := by
  have hstep := step_draw_char h.caughtUp.ge h.seq (h.read ▸ hch)
  rw [h.read] at hstep
  obtain ⟨k, o, hk⟩ := run_allRead (s := { u.renderGlyph (textAt s.text s.textPtr n) with
    textPtr := u.textPtr + 1 }) (by simp [h.caughtUp])
  refine ⟨k + 1, _, bytes ++ glyphBytes s.cfg u.draws (glyphIndex (textAt s.text s.textPtr n)),
    (run_succ hstep k).trans hk, ?_⟩
  constructor
  case caughtUp => rfl
  case textPtr => simp [h.textPtr, ← textPtr_succ]
  case trace => simp [h.trace, glyphWrite_eq, h.cfg]
  case length => rw [List.length_append, h.length, glyphBytes_length, Nat.mul_succ]
  case inTable =>
    rw [stringInTable_succ]
    rintro ⟨hin, hlast⟩
    rw [h.inTable hin, stringGlyphBytes_succ hwf hlast]
  all_goals simp [h.seq, h.cfg, h.text, h.responses, h.rip, h.fault, h.ready]

/-- Every character before the terminator is drawn, by induction on how many there are. -/
theorem run_draw {s : State} (hseq : s.seq = .busy .draw) (hseen : s.caughtUp) (hwf : s.cfg.wf = true) {n : Nat}
    (hchars : ∀ k, k < n → textAt s.text s.textPtr k ≠ 0x00) :
    ∃ (k : Nat) (u : State) (bytes : List Byte), Sys2Proof.core.run k s = .next u ∧ Drawn s u n bytes := by
  induction n with
  | zero => exact ⟨0, s, [], run_zero s, .start hseq hseen⟩
  | succ n ih =>
    obtain ⟨k, u, bytes, hrun, hu⟩ := ih fun k hk => hchars k (Nat.lt_succ_of_lt hk)
    obtain ⟨j, v, bytes', hrun', hv⟩ := hu.next hwf (hchars n (Nat.lt_succ_self n))
    exact ⟨k + j, v, bytes', (run_append hrun j).trans hrun', hv⟩

/-- How a RENDER_STRING whose operands are latched in `s` ends, as `t`, after drawing the `n` characters at OP_ADDR
with the data bytes `bytes`. -/
structure StringSent (s t : State) (n : Nat) (bytes : List Byte) : Prop where
  caughtUp : t.caughtUp
  seq : t.seq = .idle
  resp : t.resp = 0x00
  responses : t.responses = s.responses ++ [0x00]
  rip : t.rip = s.rip + 5
  fault : t.fault = s.fault
  ready : t.ready = s.ready
  trace : t.trace = s.trace ++ cursorEvents s.opPage s.opCol ++ bytes.flatMap wdEvents
  length : bytes.length = s.cfg.glyphWidth * n
  inTable : stringInTable s.cfg s.text s.opAddr n → bytes = stringGlyphBytes s.cfg s.text s.opAddr n

/-- From the cursor positioning on: the controller reads its events, the characters are drawn, and the terminator ends
the request. -/
theorem run_startDrawing {s : State} (hseen : s.caughtUp) (hwf : s.cfg.wf = true) {n : Nat}
    (hstr : stringOfLength s.text s.opAddr n) :
    ∃ (k : Nat) (t : State) (bytes : List Byte),
      Sys2Proof.core.run k s.startDrawing = .next t ∧ StringSent s t n bytes := by
  obtain ⟨hchars, hend⟩ := hstr
  obtain ⟨i, o, hi⟩ := run_allRead (s := s.startDrawing) (by simp [hseen])
  obtain ⟨j, u, bytes, hj, hu⟩ := run_draw (s := s.startDrawing.allRead o) (n := n) (by simp)
    (State.allRead_seen o _) (by simpa using hwf) (by simpa using hchars)
  have hstep := step_draw_terminator hu.caughtUp.ge hu.seq (by simpa [hu.read] using hend)
  refine ⟨_, _, bytes, (run_append hi (j + 1)).trans ((run_append hj 1).trans (run_one hstep)), ?_⟩
  constructor
  case caughtUp => exact hu.caughtUp
  case trace => simp [hu.trace, cursorWrite_eq]
  case length => simpa using hu.length
  case inTable => simpa using hu.inTable
  all_goals simp [hu.responses, hu.rip, hu.fault, hu.ready, respOk]

/-! Reading a string ahead in the checked mode -/

/-- The state in which `n` bytes of the string at `a` have been read ahead, `bad` telling whether one of them is out of
the table (43 R115; log entry 12). -/
def State.scanning (a : Addr) (n : Nat) (bad : Bool) (s : State) : State :=
  { s with textPtr := a + BitVec.ofNat 16 n, seq := .busy (.scan n bad) }

theorem step_scanning_char {s : State} (hseen : s.caughtUp) {a : Addr} {n : Nat} (hch : textAt s.text a n ≠ 0x00)
    (bad : Bool) : step (s.scanning a n bad)
      = .next (s.scanning a (n + 1) (bad || unsupportedGlyph s.cfg (textAt s.text a n))) := by
  have hmove := scanNext_char (s := s.scanning a n bad) hch n bad
  refine (step_busy (s := s.scanning a n bad) hseen.ge rfl).trans (congrArg _ (hmove.trans ?_))
  rw [State.scanning, State.scanning, ← textPtr_succ]
  rfl

/-- Reading `n` characters ahead takes `n` steps, and finds out whether they are all in the table. -/
theorem run_scanning {s : State} (hseen : s.caughtUp) {a : Addr} {n : Nat}
    (hchars : ∀ k, k < n → textAt s.text a k ≠ 0x00) :
    ∃ bad, Sys2Proof.core.run n (s.scanning a 0 false) = .next (s.scanning a n bad)
      ∧ (bad = false ↔ stringInTable s.cfg s.text a n) := by
  induction n with
  | zero => exact ⟨false, rfl, by simp [stringInTable]⟩
  | succ n ih =>
    obtain ⟨bad, hrun, hbad⟩ := ih fun k hk => hchars k (Nat.lt_succ_of_lt hk)
    have hstep := step_scanning_char hseen (hchars n (Nat.lt_succ_self n)) bad
    refine ⟨_, (run_append hrun 1).trans (run_one hstep), ?_⟩
    rw [stringInTable_succ, ← hbad, Bool.or_eq_false_iff, unsupportedGlyph, decide_eq_false_iff_not, not_le]

/-! From the request at RIP -/

/-- In the checked mode, from the request at RIP: the string is read ahead, up to the step at its terminator. -/
theorem run_renderString_checked {s : State} {p c : Byte} {a : Addr} {n : Nat} {rest : List Byte}
    (hseen : s.caughtUp) (hidle : s.seq = .idle) (hr : s.ready = true) (hmode : s.cfg.checkedMode = true)
    (hd : decode .request (s.stream.drop s.rip) = .ok (.renderString p c a, rest))
    (hchars : ∀ k, k < n → textAt s.text a k ≠ 0x00) :
    ∃ bad, (bad = false ↔ stringInTable s.cfg s.text a n)
      ∧ Sys2Proof.core.run (n + 1 + 1) s = .next (((s.latchString p c a).scanning a n bad).scanNext n bad) := by
  have hstart : step s = .next ((s.latchString p c a).scanning a 0 false) := by
    rw [step_request hseen.ge hidle hd, exec_renderString_checked hr hmode, State.scanning, BitVec.add_zero]
  obtain ⟨bad, hrun, hbad⟩ := run_scanning (s := s.latchString p c a) hseen hchars
  have hlast := step_busy (s := (s.latchString p c a).scanning a n bad) hseen.ge rfl
  exact ⟨bad, hbad, (run_succ hstart (n + 1)).trans ((run_append hrun 1).trans (run_one hlast))⟩

theorem stringOutOfRange_iff (cfg : Config) (p c : Byte) (n : Nat) : stringOutOfRange cfg p c n = true ↔
    cfg.pages ≤ p.toNat ∨ cfg.columns ≤ c.toNat ∨ cfg.columns < c.toNat + cfg.glyphWidth * n := by
  rw [stringOutOfRange, Bool.or_eq_true, offSurfaceOperands_iff, decide_eq_true_eq, or_assoc]

/-- Settles O30: in either mode the run reaches the cursor positioning, in the checked mode by passing the checks. -/
theorem renderStringSendsTheWholeString : Obligations.RenderStringSendsTheWholeString := by
  intro s p c a n rest hseen hidle hr hwf hd hstr hpass
  have hstart : ∃ i, Sys2Proof.core.run i s = .next (s.latchString p c a).startDrawing := by
    cases hmode : s.cfg.checkedMode with
    | false =>
      exact ⟨1, run_one ((step_request hseen.ge hidle hd).trans (exec_renderString_default hr hmode p c a))⟩
    | true =>
      obtain ⟨hp, hc, hfit, hin⟩ := hpass.resolve_left (by simp [hmode])
      obtain ⟨bad, hbad, hrun⟩ := run_renderString_checked hseen hidle hr hmode hd hstr.1
      obtain rfl := hbad.2 hin
      have hrange : ¬ stringOutOfRange s.cfg p c n = true := by
        rw [stringOutOfRange_iff]
        omega
      have hend := scanNext_passed (s := (s.latchString p c a).scanning a n false) hstr.2 hrange
      exact ⟨_, hrun.trans (congrArg _ hend)⟩
  obtain ⟨i, hi⟩ := hstart
  obtain ⟨j, t, bytes, hj, ht⟩ := run_startDrawing (s := s.latchString p c a) hseen hwf hstr
  exact ⟨i + j, t, bytes, (run_append hi j).trans hj, ht.caughtUp, ht.seq, ht.resp, ht.responses, ht.rip, ht.fault,
    ht.ready.trans hr, ht.trace, ht.length, ht.inTable⟩

/-- Settles O31: the reading ahead ends in one of the two refusals, the address checked first. -/
theorem renderStringRefusedEmitsNothing : Obligations.RenderStringRefusedEmitsNothing := by
  intro s p c a n rest hseen hidle hr hmode hd hstr hfail
  obtain ⟨bad, hbad, hrun⟩ := run_renderString_checked hseen hidle hr hmode hd hstr.1
  have hiff := stringOutOfRange_iff s.cfg p c n
  by_cases hrange : stringOutOfRange s.cfg p c n = true
  · have hend := scanNext_outOfRange (s := (s.latchString p c a).scanning a n bad) hstr.2 hrange bad
    exact ⟨_, _, hrun.trans (congrArg _ hend), rfl, rfl, rfl, rfl, rfl, (if_pos (hiff.1 hrange)).symm⟩
  · have hout : ¬ stringInTable s.cfg s.text a n := by tauto
    obtain rfl : bad = true := by rwa [← hbad, Bool.not_eq_false] at hout
    have hend := scanNext_unsupported (s := (s.latchString p c a).scanning a n true) hstr.2 hrange
    exact ⟨_, _, hrun.trans (congrArg _ hend), rfl, rfl, rfl, rfl, rfl, (if_neg (mt hiff.2 hrange)).symm⟩

/-! A string with no terminator -/

/-- Without a terminator in TEXT memory a step of a RENDER_STRING leaves it in progress. -/
theorem step_unterminated {s : State} (hbusy : s.isBusy = true) (htext : ∀ a : Addr, s.text.read a ≠ 0x00) :
    ∃ t, step s = .next t ∧ t.isBusy = true ∧ t.text = s.text := by
  cases hev : s.trace[s.seen]? with
  | some ev =>
    obtain ⟨o, ho⟩ := step_event hev
    exact ⟨_, ho, hbusy, rfl⟩
  | none =>
    obtain ⟨job, hjob⟩ := s.isBusy_iff.1 hbusy
    have hstep := step_busy (unread_none.1 hev) hjob
    cases job with
    | draw => exact ⟨_, hstep.trans (congrArg _ (drawNext_char (htext _))), hbusy, rfl⟩
    | scan count bad => exact ⟨_, hstep.trans (congrArg _ (scanNext_char (htext _) count bad)), rfl, rfl⟩

/-- Settles O32, by induction on the number of steps. -/
theorem unterminatedStringNeverEnds : Obligations.UnterminatedStringNeverEnds := by
  intro s hbusy htext k
  induction k generalizing s with
  | zero => exact ⟨s, run_zero s, hbusy⟩
  | succ k ih =>
    obtain ⟨t, hstep, ht, hkeep⟩ := step_unterminated hbusy htext
    obtain ⟨u, hrun, hu⟩ := ih t ht (hkeep ▸ htext)
    exact ⟨u, (run_succ hstep k).trans hrun, hu⟩

end Sys2Proof.Machine
end

section
/-! SUPPORT. Proofs of the statements about the surface after CLEAR_SURFACE (spec 43 R117, 44 R151 to R153). -/

namespace Sys2Proof.Machine

/-- The observer reads the frames it is sent: VALID, no volume level awaited, RST released (44 R154 to R156). -/
structure Controller.Reads (o : Controller) : Prop where
  valid : o.valid = true
  volPending : o.volPending = false
  pulse : o.pulse = .released

/-- Reading a run of data bytes, by induction on its last byte: the observer still reads, and the page stays. -/
theorem Controller.Reads.dataRun {o : Controller} (h : o.Reads) (c : Config) (bytes : List Byte) :
    (o.afterAll c (bytes.flatMap wdEvents)).Reads ∧ (o.afterAll c (bytes.flatMap wdEvents)).page = o.page := by
  induction bytes using List.reverseRecOn with
  | nil => exact ⟨h, rfl⟩
  | append_singleton bytes b ih =>
    obtain ⟨hr, hpage⟩ := ih
    rw [List.flatMap_append, List.flatMap_singleton, afterAll_append, after_wdEvents hr.valid hr.pulse]
    obtain ⟨hpage', -, hvol', hpulse', hvalid'⟩ := dataByte_frame (o.afterAll c (bytes.flatMap wdEvents)) c b
    exact ⟨⟨(hvalid' hr.volPending).trans hr.valid, hvol'.trans hr.volPending, hpulse'.trans hr.pulse⟩,
      hpage'.trans hpage⟩

/-- The column after a run of data bytes, whatever the page: past the run while that is on the surface, else unknown
(44 R151, R153). -/
theorem Controller.Reads.dataRun_column {o : Controller} (h : o.Reads) {c : Config} (hcols : c.columns ≤ 256)
    {col : Nat} (hcol : o.column = some col) (hlt : col < c.columns) (bytes : List Byte) :
    (o.afterAll c (bytes.flatMap wdEvents)).column
      = if col + bytes.length < c.columns then some (col + bytes.length) else none := by
  induction bytes using List.reverseRecOn with
  | nil => exact hcol.trans (if_pos hlt).symm
  | append_singleton bytes b ih =>
    have hr := (h.dataRun c bytes).1
    rw [List.flatMap_append, List.flatMap_singleton, afterAll_append, after_wdEvents hr.valid hr.pulse]
    refine (dataByte_column hr.volPending hcols b).trans ?_
    rw [Controller.nextColumn, ih, List.length_append, List.length_singleton, ← Nat.add_assoc]
    by_cases hin : col + bytes.length < c.columns
    · rw [if_pos hin, Option.bind_some]
    · rw [if_neg hin, if_neg (by omega), Option.bind_none]

/-- A data byte off the surface's pages changes no cell if off-surface writes are isolated, and else makes every cell
unknown, whatever the column (44 R153). -/
theorem vramAfter_offPages {c : Config} {o : Controller} {p : Nibble} (hpage : o.page = some p)
    (hp : c.pages ≤ p.toNat) (b : Byte) : o.vramAfter c b = if c.offSurfaceIsolated then o.vram else [] := by
  unfold Controller.vramAfter
  rw [hpage]
  cases o.column with
  | none => exact if_neg (Nat.not_lt.2 hp)
  | some col => exact if_neg fun h => Nat.not_lt.2 hp h.1

/-- A run of data bytes off the surface's pages does what its first byte does. -/
theorem Controller.Reads.dataRun_vram {o : Controller} (h : o.Reads) {c : Config} {p : Nibble}
    (hpage : o.page = some p) (hp : c.pages ≤ p.toNat) (bytes : List Byte) :
    (o.afterAll c (bytes.flatMap wdEvents)).vram
      = if c.offSurfaceIsolated = true ∨ bytes = [] then o.vram else [] := by
  induction bytes using List.reverseRecOn with
  | nil => exact (if_pos (.inr rfl)).symm
  | append_singleton bytes b ih =>
    obtain ⟨hr, hkeep⟩ := h.dataRun c bytes
    rw [List.flatMap_append, List.flatMap_singleton, afterAll_append, after_wdEvents hr.valid hr.pulse,
      dataByte_eq hr.volPending]
    refine (vramAfter_offPages (hkeep.trans hpage) hp b).trans ?_
    by_cases hiso : c.offSurfaceIsolated = true
    · rw [if_pos hiso, ih, if_pos (.inl hiso), if_pos (.inl hiso)]
    · rw [if_neg hiso, if_neg (by simp [hiso])]

/-- The cursor positioned at the first column of page `p`. -/
def Controller.atPageStart (p : Nat) (o : Controller) : Controller :=
  { o with page := some (BitVec.ofNat 4 p), colHi := some 0, colLo := some 0, cs := some .off, dc := some .cmd }

theorem Controller.Reads.atPageStart {o : Controller} (h : o.Reads) (p : Nat) : (o.atPageStart p).Reads :=
  ⟨h.valid, h.volPending, h.pulse⟩

/-- The sweep of one page: the cursor, then the run of zero bytes. -/
theorem Controller.Reads.after_pageSweep {o : Controller} (h : o.Reads) (c : Config) (p : Nat) :
    o.afterAll c (pageSweep c p)
      = (o.atPageStart p).afterAll c ((List.replicate c.columns 0x00).flatMap wdEvents) := by
  have hpage : lowNibble (BitVec.ofNat 8 p) = BitVec.ofNat 4 p := (nibbles_of_column p).2.symm
  rw [pageSweep_eq_cursor_run, afterAll_append, after_cursorEvents h.valid h.volPending h.pulse, hpage]
  rfl

/-- The first `n` pages have been swept: each of their cells is 0x00. -/
structure Swept (c : Config) (o : Controller) (n : Nat) : Prop where
  reads : o.Reads
  cell : ∀ p col, p < n → col < c.columns → o.cell p col = some 0x00

/-- Sweeping a page of the surface writes 0x00 to its cells and to no other. -/
theorem Swept.next {c : Config} (hb : WithinBounds c) {o : Controller} {n : Nat} (h : Swept c o n) (hn : n < c.pages) :
    Swept c (o.afterAll c (pageSweep c n)) (n + 1) := by
  have hpages := hb.pages_le
  have hcols := hb.columns_le
  have hpage : (BitVec.ofNat 4 n).toNat = n := Nat.mod_eq_of_lt (by omega)
  have hr := h.reads.atPageStart n
  rw [h.reads.after_pageSweep]
  have hrun := dataRun_after (c := c) (bytes := List.replicate c.columns 0x00) hr.valid hr.volPending hr.pulse
    (p := BitVec.ofNat 4 n) rfl (col := 0) rfl (by omega) hcols (by simp)
  refine ⟨⟨hrun.valid, hrun.volPending, hrun.pulse⟩, fun p col hp hcol => ?_⟩
  rw [hrun.cell p col (by omega), hpage, List.length_replicate]
  by_cases hlast : p = n
  · rw [if_pos ⟨hlast, by omega, by omega⟩, List.getElem?_replicate, if_pos (by omega)]
  · rw [if_neg (by omega)]
    exact h.cell p col (by omega) hcol

/-- Sweeping the pages of the surface, by induction on how many. -/
theorem swept_pages {c : Config} (hb : WithinBounds c) {o : Controller} (h : o.Reads) {n : Nat} (hn : n ≤ c.pages) :
    Swept c (o.afterAll c ((List.range n).flatMap (pageSweep c))) n := by
  induction n with
  | zero => exact ⟨h, fun p col hp => absurd hp (Nat.not_lt_zero p)⟩
  | succ n ih =>
    rw [List.range_succ, List.flatMap_append, List.flatMap_singleton, afterAll_append]
    exact (ih (by omega)).next hb hn

/-- Settles O45: the pages of the surface are zeroed one by one, and the page beyond them, whose bytes are off the
surface, leaves those cells alone or makes them unknown. -/
theorem clearSurfaceOnTheSurface : Obligations.ClearSurfaceOnTheSurface := by
  intro c o hwf hv hvol hpulse
  have hb := withinBounds_of_wf hwf
  have hpages := hb.pages_le
  have hcols := hb.columns_pos
  have hswept := swept_pages hb ⟨hv, hvol, hpulse⟩ (o := o) (Nat.le_refl c.pages)
  have hlast : o.afterAll c (surfaceSweep c)
      = (o.afterAll c ((List.range c.pages).flatMap (pageSweep c))).afterAll c (pageSweep c c.pages) := by
    rw [surfaceSweep, List.range_succ, List.flatMap_append, List.flatMap_singleton, afterAll_append]
  rw [hlast, hswept.reads.after_pageSweep]
  have hr := hswept.reads.atPageStart c.pages
  have hoff : c.pages ≤ (BitVec.ofNat 4 c.pages).toNat := (Nat.mod_eq_of_lt (by omega)).ge
  refine ⟨(hr.dataRun c _).2, ?_, fun p col hp hcol => ?_⟩
  · rw [hr.dataRun_column hb.columns_le (col := 0) rfl hcols, if_neg (by simp)]
  · rw [Controller.cell, hr.dataRun_vram rfl hoff]
    by_cases hiso : c.offSurfaceIsolated = true
    · rw [if_pos (.inl hiso), if_pos hiso]
      exact hswept.cell p col hp hcol
    · rw [if_neg (by simp [hiso]; omega), if_neg hiso, cellFind_nil]

end Sys2Proof.Machine
end

section
/-! SUPPORT. Proofs of the statements about the controller's steps (spec 44): that the observer stays the reference
reading of the events read (R159), what completes a reset pulse (R154), and that the block reads nothing from the
observer (R159). -/

namespace Sys2Proof.Machine

/-! Reading the trace -/

/-- With every event read, a step is a move of the block. -/
theorem step_move_of_read {s t : State} (hseen : s.trace.length ≤ s.seen) (h : step s = .next t) :
    ∃ evs, BlockMove s t evs := by
  cases step_cases h with
  | event ev o hev _ => rw [unread_none.2 hseen] at hev; cases hev
  | fault code _ _ hcode ht => exact ⟨_, ht ▸ raiseFault_move s hcode⟩
  | string job _ hbusy ht =>
    obtain ⟨evs, hm, -⟩ := continueString_move hbusy
    exact ⟨evs, ht ▸ hm⟩
  | request i rest _ _ _ hreq _ hexec =>
    obtain ⟨t', evs, he, hm, -⟩ := exec_request hreq s
    obtain rfl := Host.Outcome.next.inj (he.symm.trans hexec)
    exact ⟨evs, hm⟩

/-- Either the step reads the next unread event by the rules, or every event is read and the block moves. -/
theorem step_reads_next_or_moves {s t : State} (h : step s = .next t) :
    (∃ ev, s.trace[s.seen]? = some ev ∧ t = s.readEvent.setLcd (s.lcd.after s.cfg ev))
      ∨ ∃ evs, BlockMove s t evs := by
  cases hev : s.trace[s.seen]? with
  | some ev => exact .inl ⟨ev, rfl, Host.Outcome.next.inj (h.symm.trans (step_event_eq hev))⟩
  | none => exact .inr (step_move_of_read (unread_none.1 hev) h)

/-- One more event read: the observer is the reading of one more event. -/
theorem observerInv_readEvent {s : State} (hinv : s.observerInv) {ev : Event} (hev : s.trace[s.seen]? = some ev) :
    (s.readEvent.setLcd (s.lcd.after s.cfg ev)).observerInv := by
  refine ⟨(List.getElem?_eq_some_iff.1 hev).1, ?_⟩
  show s.lcd.after s.cfg ev = Controller.initial.afterAll s.cfg (s.trace.take (s.seen + 1))
  rw [List.take_add_one, hev, Option.toList_some, afterAll_concat, ← hinv.2]

/-- A move appends events that are all unread, and leaves the observer alone. -/
theorem BlockMove.keeps_observerInv {s t : State} {evs : List Event} (h : BlockMove s t evs) (hinv : s.observerInv) :
    t.observerInv := by
  obtain ⟨hseen, hlcd⟩ := hinv
  unfold State.observerInv
  rw [h.seen, h.trace, h.lcd, h.cfg, List.take_append_of_le_length hseen, List.length_append]
  exact ⟨by omega, hlcd⟩

/-- Settles O52: a step reads one more event by the rules, or moves the block, which reads none. -/
theorem stepKeepsObserverAFunctionOfTheTrace : Obligations.StepKeepsObserverAFunctionOfTheTrace := by
  intro s t hinv h
  rcases step_reads_next_or_moves h with ⟨ev, hev, rfl⟩ | ⟨evs, hm⟩
  · exact observerInv_readEvent hinv hev
  · exact hm.keeps_observerInv hinv

/-- Settles O41: the step's reading of every event is the reference reading of it. -/
theorem controllerStepIsTheReferenceReading : Obligations.ControllerStepIsTheReferenceReading :=
  fun _ _ hev => step_event_eq hev

/-! Reset pulses -/

/-- The observer right after a completed reset pulse: VALID and everything else unknown, the lines as they were (44
R154). -/
def Controller.wiped (o : Controller) : Controller := { Controller.initial with valid := true, cs := o.cs, dc := o.dc }

theorem after_rst_off_held {o : Controller} (h : o.pulse = .held) (c : Config) :
    o.after c (.rst .off) = o.wiped := if_pos h

theorem after_rst_off_notHeld {o : Controller} (h : o.pulse ≠ .held) (c : Config) :
    o.after c (.rst .off) = { o with pulse := .released } := if_neg h

/-- `rst(ON)`, a long enough wait and `rst(OFF)` make a completed reset pulse. -/
theorem after_resetPulse {c : Config} {d : Duration} (hd : c.tReset ≤ nominal c d) (o : Controller) :
    o.afterAll c [.rst .on, .wait d, .rst .off] = o.wiped := by
  have hheld : ({ o with pulse := .asserted } : Controller).after c (.wait d) = { o with pulse := .held } :=
    if_pos ⟨rfl, (nominal_covers c d).1 hd⟩
  show (({ o with pulse := .asserted } : Controller).after c (.wait d)).after c (.rst .off) = o.wiped
  rw [hheld]
  rfl

/-- The controller reads the unread events one a step, by the rules. -/
theorem run_reads {evs : List Event} {s : State} (h : s.trace.drop s.seen = evs) :
    Sys2Proof.core.run evs.length s
      = .next { s with seen := s.seen + evs.length, lcd := s.lcd.afterAll s.cfg evs } := by
  induction evs generalizing s with
  | nil => rfl
  | cons ev evs ih =>
    have hev : s.trace[s.seen]? = some ev := by rw [← List.head?_drop, h]; rfl
    have hrest : s.trace.drop (s.seen + 1) = evs := by rw [← List.tail_drop, h]; rfl
    have hrun := ih (s := s.readEvent.setLcd (s.lcd.after s.cfg ev)) hrest
    rw [List.length_cons, run_succ (step_event_eq hev), hrun, Nat.add_comm evs.length, ← Nat.add_assoc]
    rfl

theorem readByte_notValid {o : Controller} (hv : o.valid = false) (c : Config) (b : Byte) :
    (o.readByte c b).valid = false := by
  unfold Controller.readByte
  rw [if_pos hv]
  split_ifs <;> exact hv

/-- No event but an `rst(OFF)` that completes a held pulse makes the observer VALID. -/
theorem after_notValid {c : Config} {o : Controller} {ev : Event} (hv : o.valid = false)
    (hnot : ¬ (ev = .rst .off ∧ o.pulse = .held)) : (o.after c ev).valid = false := by
  cases ev with
  | xfer b => exact readByte_notValid hv c b
  | wait d => simp only [Controller.after, apply_ite Controller.valid, hv, ite_self]
  | rst x =>
    cases x with
    | on => exact hv
    | off => rwa [after_rst_off_notHeld fun hp => hnot ⟨rfl, hp⟩]
  | _ => exact hv

/-- The observer's pulse is held exactly when the events read end in a held pulse. -/
theorem pulse_held_iff {s : State} (hinv : s.observerInv) :
    s.lcd.pulse = .held ↔ pulseHeld s.cfg (s.trace.take s.seen) := by
  rw [hinv.2]
  exact (afterAll_pulse s.cfg (s.trace.take s.seen)).2

/-- Settles O42: by the three events of a pulse, by the last event of one, and by what can make the observer VALID. -/
theorem resetPulseMakesTheObserverValid : Obligations.ResetPulseMakesTheObserverValid := by
  refine ⟨fun s d hd hpulse => ?_, fun s hinv hev => ⟨fun hheld => ?_, fun hnot => ?_⟩, fun s t hinv h hv ht => ?_⟩
  · have hlen := congrArg List.length hpulse
    simp only [List.length_drop, List.length_cons, List.length_nil] at hlen
    exact ⟨_, run_reads hpulse, show s.seen + 3 = s.trace.length by omega, after_resetPulse hd s.lcd⟩
  · rw [step_event_eq hev, after_rst_off_held ((pulse_held_iff hinv).2 hheld)]
    rfl
  · rw [step_event_eq hev, after_rst_off_notHeld fun hp => hnot ((pulse_held_iff hinv).1 hp)]
    rfl
  · rcases step_reads_next_or_moves h with ⟨ev, hev, rfl⟩ | ⟨evs, hm⟩
    · have hdone : ev = .rst .off ∧ s.lcd.pulse = .held := by
        by_contra hnot
        exact Bool.noConfusion ((after_notValid hv hnot).symm.trans ht)
      obtain ⟨rfl, hp⟩ := hdone
      exact ⟨hev, (pulse_held_iff hinv).1 hp⟩
    · rw [hm.lcd, hv] at ht; cases ht

/-! The block is blind to the observer -/

/-- A change of the next state, if there is one. -/
def mapNext (f : State → State) : Host.Outcome State Fault Refusal → Host.Outcome State Fault Refusal
  | .next t => .next (f t)
  | .fault r => .fault r
  | .refused r => .refused r

/-- An effect that commutes with replacing the observer. -/
def BlindToObserver (f : State → State) : Prop := ∀ (s : State) (o : Controller), f (s.setLcd o) = (f s).setLcd o

/-- A request whose effect is blind to the observer is blind to it: its READY check reads nothing of it either. -/
theorem BlindToObserver.exec_setLcd {i : Instr} {isInitBus : Bool} {f : State → State} (hf : BlindToObserver f)
    (hexec : ∀ s, exec i s = s.accept isInitBus f) (s : State) (o : Controller) :
    exec i (s.setLcd o) = mapNext (State.setLcd o) (exec i s) := by
  have hready : (s.setLcd o).ready = s.ready := rfl
  rw [hexec, hexec, State.accept, State.accept, hready]
  cases readyFault isInitBus s.ready with
  | some code => rfl
  | none => exact congrArg Host.Outcome.next (hf s o)

/-- Of two blind effects, one is chosen by what the observer has no part in. -/
theorem BlindToObserver.ite {p : State → Prop} [DecidablePred p] {f g : State → State}
    (hp : ∀ s o, p (s.setLcd o) ↔ p s) (hf : BlindToObserver f) (hg : BlindToObserver g) :
    BlindToObserver fun s => if p s then f s else g s := by
  intro s o
  by_cases h : p s
  · simp only [if_pos h, if_pos ((hp s o).2 h), hf s o]
  · simp only [if_neg h, if_neg (mt (hp s o).1 h), hg s o]

/-- No request reads the observer. -/
theorem exec_request_setLcd {i : Instr} (h : i.isRequest = true) (s : State) (o : Controller) :
    exec i (s.setLcd o) = mapNext (State.setLcd o) (exec i s) := by
  cases i with
  | adcSelect | displayOff | comDirSelect | pageAddr | colAddrHi | colAddrLo | biasSelect | powerCtrl | resRatio
  | displayOn | volumeMode | volumeLevel | allPointsNormal | initOrigin40 | data => exact Bool.noConfusion h
  | initBus => exact BlindToObserver.exec_setLcd (fun _ _ => rfl) exec_initBus s o
  | initDisplay => exact BlindToObserver.exec_setLcd (fun _ _ => rfl) exec_initDisplay s o
  | clearSurface => exact BlindToObserver.exec_setLcd (fun _ _ => rfl) exec_clearSurface s o
  | writeCommand b => exact BlindToObserver.exec_setLcd (fun _ _ => rfl) (exec_writeCommand b) s o
  | writeData b => exact BlindToObserver.exec_setLcd (fun _ _ => rfl) (exec_writeData b) s o
  | setCursor p c =>
    exact (BlindToObserver.ite (fun _ _ => Iff.rfl) (fun _ _ => rfl) fun _ _ => rfl).exec_setLcd
      (exec_setCursor p c) s o
  | renderChar a =>
    exact (BlindToObserver.ite (fun _ _ => Iff.rfl) (fun _ _ => rfl) fun _ _ => rfl).exec_setLcd
      (exec_renderChar a) s o
  | renderString p c a =>
    exact (BlindToObserver.ite (fun _ _ => Iff.rfl) (fun _ _ => rfl) fun _ _ => rfl).exec_setLcd
      (exec_renderString p c a) s o

/-- No step of a RENDER_STRING reads the observer. -/
theorem continueString_blind (job : StringJob) : BlindToObserver fun s => s.continueString job := by
  cases job with
  | draw => exact BlindToObserver.ite (fun _ _ => Iff.rfl) (fun _ _ => rfl) fun _ _ => rfl
  | scan count bad =>
    refine BlindToObserver.ite (fun _ _ => Iff.rfl) ?_ fun _ _ => rfl
    refine BlindToObserver.ite (fun _ _ => Iff.rfl) (fun _ _ => rfl) ?_
    exact BlindToObserver.ite (fun _ _ => Iff.rfl) (fun _ _ => rfl) fun _ _ => rfl

/-- What the decoder makes of the bytes at RIP commutes with replacing the observer. -/
theorem fetchRequest_setLcd (s : State) (o : Controller) :
    (fetchRequest (s.setLcd o)).outcome = mapNext (State.setLcd o) (fetchRequest s).outcome := by
  have hbytes : (s.setLcd o).stream.drop (s.setLcd o).rip = s.stream.drop s.rip := rfl
  unfold fetchRequest
  rw [hbytes]
  rcases decodeRequest_cases (s.stream.drop s.rip) with ⟨_, hd⟩ | ⟨i, rest, hd, hreq, _⟩ | ⟨op, rest, _, hd, _⟩ |
    ⟨op, rest, _, hd, _⟩
  · simp only [decode, hd]; rfl
  · simp only [decode, hd]; exact exec_request_setLcd hreq s o
  · simp only [decode, hd]; rfl
  · simp only [decode, hd]; rfl

/-- With every event read, replacing the observer replaces it in the next state and changes nothing else. -/
theorem step_setLcd {s : State} (h : s.trace.length ≤ s.seen) (o : Controller) :
    step (s.setLcd o) = mapNext (State.setLcd o) (step s) := by
  have h' : (s.setLcd o).trace.length ≤ (s.setLcd o).seen := h
  cases hseq : s.seq with
  | idle =>
    rw [step_eq_outcome, step_eq_outcome, fetch_idle h hseq, fetch_idle h' hseq]
    exact fetchRequest_setLcd s o
  | busy job =>
    rw [step_busy h hseq, step_busy h' hseq]
    exact congrArg Host.Outcome.next (continueString_blind job s o)
  | halted =>
    rw [step_halted h hseq, step_halted h' hseq]
    rfl

/-- Settles O49: a step with every event read commutes with replacing the observer, and keeps it. -/
theorem blockReadsNothingFromTheObserver : Obligations.BlockReadsNothingFromTheObserver := by
  intro s o hseen
  have hblind := step_setLcd hseen o
  refine ⟨fun t h => ?_, fun r h => ?_, fun r h => ?_⟩
  · rw [h] at hblind
    obtain ⟨evs, hm⟩ := step_move_of_read hseen h
    exact ⟨hblind, hm.lcd⟩
  · rwa [h] at hblind
  · rwa [h] at hblind

end Sys2Proof.Machine
end

section
/-! SUPPORT. Proofs of the statements about the LCD commands and the data byte (spec 44 R130 to R157): when a byte is
read at all, what each command records, and what a data byte does to the surface. -/

namespace Sys2Proof.Machine

/-! When a byte is read -/

theorem observe_valid {s : State} (hv : s.lcd.valid = true) (f : Controller → Controller) :
    s.observe f = { s with lcd := f s.lcd } := if_pos hv

theorem observe_notValid {s : State} (hv : s.lcd.valid = false) (f : Controller → Controller) : s.observe f = s :=
  if_neg (by simp [hv])

/-- Settles O36: every such instruction is a reading of the observer, which with VALID false is none. -/
theorem nothingIsReadBeforeAReset : Obligations.NothingIsReadBeforeAReset := by
  intro s i hv hi
  obtain ⟨f, hexec⟩ := exec_controller hi s
  rw [hexec, observe_notValid hv]

/-- The step runs what a byte decodes to on its channel. -/
theorem step_of_channel {s : State} {b : Byte} {ch : Channel} {i : Instr} {rest : List Byte}
    (hev : s.trace[s.seen]? = some (.xfer b)) (hch : s.lcd.channel = some ch) (hd : decode ch [b] = .ok (i, rest)) :
    step s = exec i s.readEvent := by
  have hch' : s.readEvent.lcd.channel = some ch := hch
  have hfetch : fetch s = .instr i s.readEvent := by
    simp only [fetch, hev, fetchEvent, fetchByte, hch', hd]
  rw [step, hfetch]

/-- In a command frame, with RST released, a byte is a command byte (44 R155). -/
theorem channel_cmd {o : Controller} (hcs : o.cs = some .on) (hp : o.pulse = .released) (hdc : o.dc = some .cmd) :
    o.channel = some (.command o.volPending) := by
  rw [Controller.channel, if_pos ⟨hcs, hp⟩, hdc]

/-- In a data frame, with RST released, a byte is a data byte (44 R155). -/
theorem channel_data {o : Controller} (hcs : o.cs = some .on) (hp : o.pulse = .released) (hdc : o.dc = some .data) :
    o.channel = some .data := by
  rw [Controller.channel, if_pos ⟨hcs, hp⟩, hdc]

/-- Settles O7: the byte is fetched on the channel its frame gives it. -/
theorem stepRunsTheByteOfAFrame : Obligations.StepRunsTheByteOfAFrame := by
  intro s b m i rest hev hcs hp hdc hd
  cases m with
  | cmd => exact step_of_channel hev (channel_cmd hcs hp hdc) hd
  | data => exact step_of_channel hev (channel_data hcs hp hdc) hd

/-! Commands -/

/-- A configuration command, read with VALID true, records its byte. -/
theorem record_valid {s : State} (hv : s.lcd.valid = true) (f : LcdRegs → LcdRegs) :
    s.record f = { s with lcd := { s.lcd with regs := f s.lcd.regs } } := observe_valid hv _

/-- Settles O33: each command is one record. -/
theorem configurationCommandsRecordTheirByte : Obligations.ConfigurationCommandsRecordTheirByte := by
  intro s hv
  have hrecord := fun f => congrArg (Host.Outcome.next (φ := Fault) (ρ := Refusal)) (record_valid hv f)
  exact ⟨hrecord _, hrecord _, hrecord _, hrecord _, hrecord _, hrecord _, hrecord _, hrecord _, hrecord _⟩

/-- Settles O34: each command is a reading of one latch. -/
theorem addressCommandsSetTheirLatch : Obligations.AddressCommandsSetTheirLatch := fun _ _ hv =>
  ⟨congrArg _ (observe_valid hv _), congrArg _ (observe_valid hv _), congrArg _ (observe_valid hv _)⟩

/-- Settles O35: both bytes are readings of the pair's own fields. -/
theorem volumePairSetsTheLevel : Obligations.VolumePairSetsTheLevel := fun _ _ hv =>
  ⟨congrArg _ (observe_valid hv _), congrArg _ (observe_valid hv _)⟩

/-- A command byte that no case of 44 R157 matches loses the observer. -/
theorem readCommand_unknown {o : Controller} {b : Byte} (hvol : o.volPending = false)
    (hhi : b &&& 0xF0 ∉ ([0xB0, 0x10, 0x00] : List Byte))
    (hb : b ∉ ([0x81, 0xA0, 0xAE, 0xAF, 0xC8, 0xA3, 0x2F, 0x26, 0xA4, 0x40] : List Byte)) :
    o.readCommand b = { o with valid := false } := by
  simp only [List.mem_cons, List.not_mem_nil, or_false, not_or] at hhi hb
  simp only [Controller.readCommand, hvol, hhi, hb, Bool.false_eq_true, or_self, if_false]

/-! Data bytes -/

theorem exec_data_valid {s : State} (hv : s.lcd.valid = true) (b : Byte) :
    exec (.data b) s = .next { s with lcd := s.lcd.dataByte s.cfg b } := congrArg _ (observe_valid hv _)

/-- Settles O40: the data byte inside the pair, and the last case of the ordered reading. -/
theorem observerBecomesLost : Obligations.ObserverBecomesLost := by
  intro s b hv
  refine ⟨fun hvol => ?_, fun hev hcs hp hdc hvol ⟨hhi, hb⟩ => ?_⟩
  · rw [exec_data_valid hv, dataByte_pending hvol]
    rfl
  · have hread : s.lcd.after s.cfg (.xfer b) = s.lcd.readCommand b := by
      refine (readByte_frame hcs hp hv s.cfg b).trans ?_
      rw [hdc]
    rw [step_event_eq hev, hread, readCommand_unknown hvol hhi hb]
    rfl

/-- A data byte outside the volume pair, read with VALID true: it answers a state that differs in the cells and the
column latch only. -/
theorem exec_data_frame {s : State} (hv : s.lcd.valid = true) (hvol : s.lcd.volPending = false) (b : Byte) :
    ∃ t, exec (.data b) s = .next t ∧ t.lcd = s.lcd.dataByte s.cfg b
      ∧ t = { s with lcd := { s.lcd with vram := t.lcd.vram, colHi := t.lcd.colHi, colLo := t.lcd.colLo } } := by
  refine ⟨_, exec_data_valid hv b, rfl, ?_⟩
  rw [dataByte_eq hvol]

/-- The cells after a data byte outside the volume pair. -/
theorem dataByte_cell_eq {o : Controller} (hvol : o.volPending = false) (c : Config) (b : Byte) (p col : Nat) :
    (o.dataByte c b).cell p col = cellFind (o.vramAfter c b) (cellKey p col) := by
  rw [dataByte_eq hvol, Controller.cell]

/-- With no known next column both nibbles of the latch are unknown. -/
theorem dataByte_nibbles_unknown {o : Controller} (hvol : o.volPending = false) {c : Config}
    (hnext : o.nextColumn c = none) (b : Byte) :
    (o.dataByte c b).colHi = none ∧ (o.dataByte c b).colLo = none := by
  rw [dataByte_eq hvol, hnext]
  exact ⟨rfl, rfl⟩

theorem nextColumn_known {o : Controller} {col : Nat} (h : o.column = some col) (c : Config) :
    o.nextColumn c = if col + 1 < c.columns then some (col + 1) else none := by
  rw [Controller.nextColumn, h, Option.bind_some]

theorem nextColumn_unknown {o : Controller} (h : o.column = none) (c : Config) : o.nextColumn c = none := by
  rw [Controller.nextColumn, h, Option.bind_none]

theorem column_of_colHi_none {o : Controller} (h : o.colHi = none) : o.column = none := by
  rw [Controller.column, h]

/-- Settles O37: the byte is listed at its cell, and the latch moves on to the next column. -/
theorem dataByteWritesItsCell : Obligations.DataByteWritesItsCell := by
  intro s b p h l hv hvol hpage hhi hlo hp hc hcols
  have hcol : s.lcd.column = some (h ++ l).toNat := by rw [Controller.column, hhi, hlo]
  have hnext := nextColumn_known hcol s.cfg
  have hcell := fun p' c' => dataByte_cell hvol hpage hcol hp hc b (p' := p') (c' := c')
  obtain ⟨t, hexec, hlcd, hframe⟩ := exec_data_frame hv hvol b
  refine ⟨t, hexec, ?_, fun p' c' hc' hne => ?_, ?_, fun hedge => ?_, hframe⟩
  · rw [hlcd, hcell _ _ (by omega), if_pos ⟨rfl, rfl⟩]
  · rw [hlcd, hcell p' c' hc', if_neg fun heq => hne (Prod.ext heq.1 heq.2)]
  · rw [hlcd, dataByte_column hvol hcols, hnext]
  · rw [hlcd]
    exact dataByte_nibbles_unknown hvol (hnext.trans (if_neg (by omega))) b

/-- At an unknown column of a page of the surface the cells of that page, or of the whole surface, become unknown (44
R152). -/
theorem vramAfter_unknownColumn {c : Config} {o : Controller} {p : Nibble} (hpage : o.page = some p)
    (hp : p.toNat < c.pages) (hcol : o.column = none) (b : Byte) :
    o.vramAfter c b = if c.offSurfaceIsolated then o.vram.filter fun x => x.1 / 256 != p.toNat else [] := by
  simp only [Controller.vramAfter, hpage, hcol, if_pos hp]

/-- Settles O38: the cells of the page are filtered out, or none is left. -/
theorem dataByteAtUnknownColumn : Obligations.DataByteAtUnknownColumn := by
  intro s b p hv hvol hpage hp hcol
  obtain ⟨hhi, -⟩ := dataByte_nibbles_unknown hvol (nextColumn_unknown hcol s.cfg) b
  obtain ⟨t, hexec, hlcd, hframe⟩ := exec_data_frame hv hvol b
  refine ⟨t, hexec, column_of_colHi_none (hlcd ▸ hhi), fun p' c' hc' => ?_, hframe⟩
  rw [hlcd, dataByte_cell_eq hvol, vramAfter_unknownColumn hpage hp hcol]
  by_cases hiso : s.cfg.offSurfaceIsolated = true
  · have hkey : cellKey p' c' / 256 = p' := by unfold cellKey; omega
    rw [if_pos hiso, cellFind_filter _ (fun k => k / 256 != p.toNat), hkey]
    simp [hiso, Controller.cell]
  · rw [if_neg hiso, if_neg fun h => hiso h.1, cellFind_nil]

/-- A data byte off the surface, or with the page unknown: the cells stay when off-surface writes are isolated and the
page is known, and else all become unknown (44 R153; log entry 16). -/
theorem vramAfter_offSurface {c : Config} {o : Controller}
    (hoff : o.page = none ∨ ∃ p : Nibble, o.page = some p
      ∧ (c.pages ≤ p.toNat ∨ ∃ col, o.column = some col ∧ c.columns ≤ col)) (b : Byte) :
    o.vramAfter c b = if c.offSurfaceIsolated = true ∧ o.page ≠ none then o.vram else [] := by
  rcases hoff with hnone | ⟨p, hpage, hp | ⟨col, hcol, hc⟩⟩
  · simp [Controller.vramAfter, hnone]
  · simp [vramAfter_offPages hpage hp, hpage]
  · simp [Controller.vramAfter, hpage, hcol, Nat.not_lt.2 hc]

/-- Settles O39: all cells stay or none, and the latch moves on as on the surface. -/
theorem dataByteOffTheSurface : Obligations.DataByteOffTheSurface := by
  intro s b hv hvol hcols hoff
  obtain ⟨t, hexec, hlcd, hframe⟩ := exec_data_frame hv hvol b
  refine ⟨t, hexec, fun p' c' => ?_, ?_, hframe⟩
  · rw [hlcd, dataByte_cell_eq hvol, vramAfter_offSurface hoff, apply_ite (cellFind · _), cellFind_nil]
    rfl
  · rw [hlcd, dataByte_column hvol hcols]
    rfl

end Sys2Proof.Machine
end

section
/-! SUPPORT. Proofs of the statements about exceptions (spec 60): the fault of the READY check, and the HALTED block. -/

namespace Sys2Proof.Machine

/-- Settles O14: a HALTED block makes no move, so its step reads an event. -/
theorem haltedBlockStaysHalted : Obligations.HaltedBlockStaysHalted := by
  intro s hs
  refine ⟨fun t h => ?_, State.blockReset_seq s⟩
  rcases step_reads_or_moves h with ⟨o, rfl⟩ | ⟨hne, _⟩
  · rfl
  · exact absurd hs hne

/-- Settles O13: INIT_BUS and the other requests are `accept` with opposite READY checks. -/
theorem requestTakesTheReadyFault : Obligations.RequestTakesTheReadyFault := by
  intro s i
  refine ⟨fun hr => (exec_initBus s).trans (accept_initBus_ready hr _), fun hr hreq hi => ?_⟩
  obtain ⟨f, hf⟩ := exec_request_accept hreq hi s
  exact hf.trans (accept_notReady hr f)

end Sys2Proof.Machine
end

section
/-! SUPPORT. Proofs of the statements about reset and the end of a run (spec 70): what the reset state holds, and where
the machine stops. -/

namespace Sys2Proof.Machine

/-! The end of a run -/

/-- An idle block at the end of the stream has no byte to decode. -/
theorem step_endOfStream {s : State} (h : s.trace.length ≤ s.seen) (hs : s.seq = .idle)
    (hend : s.stream.length ≤ s.rip) : step s = .refused .endOfRun := by
  simp [step, fetch_idle h hs, fetchRequest, List.drop_eq_nil_of_le hend, decode, decodeRequest]

/-- An idle block with a byte at RIP runs a request or takes a fault, and either is a next state. -/
theorem step_idle_next {s : State} (h : s.trace.length ≤ s.seen) (hs : s.seq = .idle)
    (hbyte : s.rip < s.stream.length) : ∃ t, step s = .next t := by
  rcases decodeRequest_cases (s.stream.drop s.rip) with
    ⟨hnil, _⟩ | ⟨i, rest, hd, hreq, _⟩ | ⟨op, _, _, hd, _⟩ | ⟨op, _, _, hd, _⟩
  · exact absurd (List.drop_eq_nil_iff.1 hnil) (Nat.not_le.2 hbyte)
  · obtain ⟨t, _, hexec, _⟩ := exec_request hreq s
    exact ⟨t, (step_request h hs hd).trans hexec⟩
  · exact ⟨_, step_illegal h hs hd⟩
  · exact ⟨_, step_truncated h hs hd⟩

/-- A step answers a next state, except with every event read in a HALTED block or an idle one at the end of the
stream. -/
theorem step_stops_or_next (s : State) :
    (s.trace.length ≤ s.seen ∧ s.seq = .halted)
    ∨ (s.trace.length ≤ s.seen ∧ s.seq = .idle ∧ s.stream.length ≤ s.rip)
    ∨ ∃ t, step s = .next t := by
  cases hev : s.trace[s.seen]? with
  | some ev => exact .inr (.inr ⟨_, step_event_eq hev⟩)
  | none =>
    have hseen := unread_none.1 hev
    cases hseq : s.seq with
    | halted => exact .inl ⟨hseen, rfl⟩
    | busy job => exact .inr (.inr ⟨_, step_busy hseen hseq⟩)
    | idle =>
      rcases le_or_gt s.stream.length s.rip with hend | hbyte
      · exact .inr (.inl ⟨hseen, rfl, hend⟩)
      · exact .inr (.inr (step_idle_next hseen hseq hbyte))

/-- Settles O8: each of the two ways to stop has its own outcome, and no other step stops. -/
theorem machineStopsExactlyAtTheEndOfARun : Obligations.MachineStopsExactlyAtTheEndOfARun := by
  intro s
  refine ⟨fun f => ⟨fun h => ?_, ?_⟩, fun r => ⟨fun h => ?_, ?_⟩⟩
  · rcases step_stops_or_next s with ⟨hseen, hhalt⟩ | ⟨hseen, hidle, hend⟩ | ⟨t, ht⟩
    · rw [step_halted hseen hhalt] at h
      exact ⟨hseen, hhalt, (Host.Outcome.fault.inj h).symm⟩
    · rw [step_endOfStream hseen hidle hend] at h; cases h
    · rw [ht] at h; cases h
  · rintro ⟨hseen, hhalt, rfl⟩
    exact step_halted hseen hhalt
  · rcases step_stops_or_next s with ⟨hseen, hhalt⟩ | ⟨hseen, hidle, hend⟩ | ⟨t, ht⟩
    · rw [step_halted hseen hhalt] at h; cases h
    · rw [step_endOfStream hseen hidle hend] at h
      exact ⟨hseen, hidle, hend, (Host.Outcome.refused.inj h).symm⟩
    · rw [ht] at h; cases h
  · rintro ⟨hseen, hidle, hend, rfl⟩
    exact step_endOfStream hseen hidle hend

/-! Reset -/

/-- The reset state is what block reset makes of it. -/
theorem blockReset_reset : State.reset.blockReset = State.reset := rfl

/-- Settles O15: the reset state is itself a block reset, whose fields are read off. -/
theorem blockResetGivesTheResetValues : Obligations.BlockResetGivesTheResetValues := by
  intro s t ht
  obtain ⟨u, rfl⟩ : ∃ u : State, t = u.blockReset := by
    rcases ht with rfl | rfl
    · exact ⟨s, rfl⟩
    · exact ⟨State.reset, blockReset_reset.symm⟩
  exact ⟨u.blockReset_rip, u.blockReset_seq, u.blockReset_ready, u.blockReset_fault, u.blockReset_resp,
    congrArg Lines.dir u.blockReset_lines, congrArg Lines.cs u.blockReset_lines,
    congrArg Lines.dc u.blockReset_lines, congrArg Lines.rst u.blockReset_lines,
    congrArg Lines.spi u.blockReset_lines, u.blockReset_trace⟩

/-- The open glyph count is that of an index below 256, and the table is built with one glyph for each (00 R5). -/
theorem build_wf : Config.build.wf = true := by
  have hcount : Config.openGlyphCountPred.val + 1 ≤ 256 := Config.openGlyphCountPred.isLt
  simp [Config.wf, Config.build, hcount]

/-- FAULT and RESP are 0x00 and SEQ is IDLE. -/
theorem start_statusInv (cfg : Config) (stream : List Byte) (text : Memory) :
    (State.start cfg stream text).statusInv :=
  ⟨⟨nofun, fun h => absurd rfl h⟩, List.mem_cons_self, List.mem_cons_self, fun _ => ⟨rfl, nofun⟩⟩

/-- A block not READY has emitted nothing, and its lines are those of reset. -/
theorem start_readyInv (cfg : Config) (stream : List Byte) (text : Memory) :
    (State.start cfg stream text).readyInv :=
  ⟨nofun, fun _ => ⟨rfl, rfl, .inl rfl⟩⟩

/-- RIP is at the start of the stream, and no RENDER_STRING is in progress. -/
theorem start_ripInv (cfg : Config) (stream : List Byte) (text : Memory) :
    (State.start cfg stream text).ripInv :=
  ⟨Nat.zero_le _, nofun⟩

/-- Settles O60: with an empty trace the observer and the lines are the initial ones, and nothing is listed in memory. -/
theorem resetMeetsTheInvariants : Obligations.ResetMeetsTheInvariants := by
  have hobserver : State.reset.observerInv := ⟨le_rfl, rfl⟩
  have hrest : State.reset.linesAtRest := ⟨nofun, nofun⟩
  exact ⟨hobserver, rfl, hrest, start_statusInv _ _ _, start_readyInv _ _ _, rfl, start_ripInv _ _ _, ⟨rfl, rfl⟩,
    build_wf⟩

end Sys2Proof.Machine
end
